-- ==== Sys2Proof/Word.lean ====
section
/-!
DEFINITION. The word types of `poly1305_core`: bytes, the 32-bit command word, the 128-bit integers of rule R88, the
256-bit key bus, and the field elements of rule R80. The arithmetic on them is in Machine/Field.lean.
-/

namespace Sys2Proof

/-- A byte, an integer 0..255 (spec/00_scope.md section 4). -/
abbrev Byte := BitVec 8

/-- The command word `CMD[31:0]` (R60). -/
abbrev Word := BitVec 32

/-- A `u128` (R88): `R`, `S`, `TAGIN` and `TAGOUT` are of this width. -/
abbrev U128 := BitVec 128

/-- The key bus `KEY[255:0]` (R30). -/
abbrev KeyBus := BitVec 256

/-- The field prime `p = 2^130 − 5` (R6, R80). -/
def fieldPrime : Nat := 2 ^ 130 - 5

theorem fieldPrime_pos : 0 < fieldPrime := by decide

/-- A field element in its canonical representative, `0 ≤ x < p` (R80). -/
abbrev FieldElem := Fin fieldPrime

end Sys2Proof
end

