-- ==== Sys2Proof/Machine/Field.lean ====
section
/-!
DEFINITION. The arithmetic of spec/40_field_arithmetic.md: the field of integers modulo `p` (R82 to R85) and the 128-bit
integers (R88, R89). Every operation computes exactly and reduces at the end.
-/

namespace Sys2Proof.Machine

/-- `fe_canon(x) = x mod p` for any non-negative integer `x` (R84). -/
def feCanon (x : Nat) : FieldElem := ⟨x % fieldPrime, Nat.mod_lt _ fieldPrime_pos⟩

/-- `fe_add(a, b) = (a + b) mod p` (R82). -/
def feAdd (a b : FieldElem) : FieldElem := feCanon (a.val + b.val)

/-- `fe_mul(a, b) = (a * b) mod p` (R83). -/
def feMul (a b : FieldElem) : FieldElem := feCanon (a.val * b.val)

/-- An integer below `p` as a field element (R85). Every integer the core converts is below `2^129 < p`, so the value
does not change. -/
def toField (c : Nat) : FieldElem := feCanon c

/-- The additive identity (R82, R105). -/
def feZero : FieldElem := feCanon 0

/-- `trunc128(x) = x mod 2^128` (R89). -/
def trunc128 (x : FieldElem) : U128 := BitVec.ofNat 128 x.val

/-- `u128_add(a, b) = (a + b) mod 2^128` (R88). -/
def u128Add (a b : U128) : U128 := a + b

end Sys2Proof.Machine
end

