-- ==== Sys2Proof/Config.lean ====
section
/-!
DEFINITION. What is fixed for the machine (R6, R7) and the values the spec leaves free. A free value is an opaque
constant: no proof can see what it is. The latencies of R7 are no part of a model without time (R196).
-/

namespace Sys2Proof.Config

/-- `BLOCK`: the block length in bytes (R6). -/
abbrev blockBytes : Nat := 16

/-- `KEYBITS`: the key length in bits (R6). -/
abbrev keyBits : Nat := 256

/-- The tag length in bytes, `TAGBITS / 8` (R6). -/
abbrev tagBytes : Nat := 16

/-- `MAXLEN`: the most bytes one `UPDATE` carries, `2^ARGW − 1` (R7). -/
abbrev maxLen : Nat := 65535

/-- The contents of the six registers (R20) when `rst` is asserted. -/
structure Registers where
  valid : Bool
  regR : U128
  regS : U128
  regH : FieldElem
  buf : List Byte
  bufLen : BitVec 4
  deriving DecidableEq, Repr

/-- What stands on the ports (R30) when `rst` is asserted; `out` is `RSP` and `TAGOUT`. -/
structure Ports where
  cmd : Option Word
  key : KeyBus
  tagIn : U128
  din : List Byte
  out : Option (BitVec 8 × U128)
  deriving DecidableEq, Repr

/-!
What the data registers hold after the `n`-th assertion of `rst` is unspecified, and neither that the old key is gone nor
that it survives may be concluded (R32, R185). So each free value below may depend on what the registers and the ports
held before. notes/assumptions/2.md.
-/

/-- What `R` holds after the `n`-th assertion of `rst`. -/
opaque resetR : Nat → Registers → Ports → U128

/-- What `S` holds after the `n`-th assertion of `rst`. -/
opaque resetS : Nat → Registers → Ports → U128

/-- What `H` holds, before it is brought into `[0, p)`, after the `n`-th assertion of `rst`. -/
opaque resetH : Nat → Registers → Ports → Nat

/-- What `BUFLEN` holds after the `n`-th assertion of `rst`. -/
opaque resetBufLen : Nat → Registers → Ports → BitVec 4

/-- What `BUF[i]` holds after the `n`-th assertion of `rst`, `i` the last argument. -/
opaque resetBuf : Nat → Registers → Ports → Nat → Byte

/-- How many bytes of its payload an `UPDATE` in progress had consumed at the `n`-th assertion of `rst`, before the
bound of its `LEN` is applied (R185: "whatever part of its payload was consumed is lost"). The registers are given to it
only while `VALID = 1`, since no command reads them otherwise (R21). Free value, notes/assumptions/3.md. -/
opaque resetConsumed : Nat → Option Registers → Ports → Nat

end Sys2Proof.Config
end

