-- ==== Sys2Proof/Syntax.lean ====
section
/-!
DEFINITION. The commands of `poly1305_core`, one constructor per row of spec/opcode_table.json (R61). A command is
its word alone; the payload stands on the ports (`KEY`, `DIN`, `TAGIN`: R69), which State holds.
-/

namespace Sys2Proof

/-- The decoded commands of R70. -/
inductive Instr where
  /-- `INIT`, with the declared key length in bits `KLEN = CMD[15:0]` (R62, R100). -/
  | init (klen : Nat)
  /-- `UPDATE`, with the chunk length in bytes `LEN = CMD[15:0]` (R63, R110). -/
  | update (len : Nat)
  /-- `FINAL` (R64, R126). -/
  | final
  /-- `VERIFY` (R65, R140). -/
  | verify
  deriving DecidableEq, Repr

end Sys2Proof
end

