-- ==== Sys2Proof/WellFormed.lean ====
section
/-!
DEFINITION. Which commands a command word can carry: `ARG` is an unsigned 16-bit field (R60), so `KLEN` and `LEN` are
0..65535 (R62, R63).
-/

namespace Sys2Proof

/-- The argument fits the 16 bits of `CMD[15:0]`. -/
def Instr.wellFormed : Instr → Bool
  | .init klen => decide (klen < 2 ^ 16)
  | .update len => decide (len ≤ Config.maxLen)
  | .final => true
  | .verify => true

/-- `Instr.wellFormed` as a proposition. -/
abbrev Instr.WellFormed (i : Instr) : Prop := i.wellFormed = true

end Sys2Proof
end

