-- ==== Sys2Proof/Decode.lean ====
section
/-!
DEFINITION. The decoder of R70, total on all 2^32 words, and the encoder of R62 to R65 written from the same layout
(R60): `OP = CMD[31:28]`, `RSV = CMD[27:16]`, `ARG = CMD[15:0]`.
-/

namespace Sys2Proof

/-- Why a word is illegal, the clauses of R66. -/
inductive IllegalReason where
  /-- `RSV ≠ 0`. -/
  | reservedBits
  /-- `OP` is `0x0` or `0x5` to `0xF`. -/
  | reservedOp
  /-- `ARG ≠ 0` on `FINAL` or `VERIFY`. -/
  | nonzeroArg
  deriving DecidableEq, Repr

/-- The result of decoding: a command, or `Illegal` with its reason. -/
inductive Decoded where
  | legal (i : Instr)
  | illegal (why : IllegalReason)
  deriving DecidableEq, Repr

/-- `OP = CMD[31:28]` (R60). -/
def opField (w : Word) : BitVec 4 := w.extractLsb' 28 4

/-- `RSV = CMD[27:16]` (R60). -/
def rsvField (w : Word) : BitVec 12 := w.extractLsb' 16 12

/-- `ARG = CMD[15:0]` (R60). -/
def argField (w : Word) : BitVec 16 := w.extractLsb' 0 16

/-- `decode(CMD)`, the tests in the order of R70. -/
def decode (w : Word) : Decoded :=
  if rsvField w ≠ 0#12 then .illegal .reservedBits
  else if opField w = 0x1#4 then .legal (.init (argField w).toNat)
  else if opField w = 0x2#4 then .legal (.update (argField w).toNat)
  else if opField w = 0x3#4 then
    if argField w = 0#16 then .legal .final else .illegal .nonzeroArg
  else if opField w = 0x4#4 then
    if argField w = 0#16 then .legal .verify else .illegal .nonzeroArg
  else .illegal .reservedOp

/-- The word with the given `OP` and `ARG` and `RSV = 0` (R60). -/
def encodeFields (op : BitVec 4) (arg : BitVec 16) : Word := op ++ (0#12 ++ arg)

/-- The command word of a command (R62 to R65). -/
def encode : Instr → Word
  | .init klen => encodeFields 0x1#4 (BitVec.ofNat 16 klen)
  | .update len => encodeFields 0x2#4 (BitVec.ofNat 16 len)
  | .final => encodeFields 0x3#4 0#16
  | .verify => encodeFields 0x4#4 0#16

/-- The command, if the word is one. -/
def Decoded.toOption : Decoded → Option Instr
  | .legal i => some i
  | .illegal _ => none

/-- The bits `w` of a table row of `nbits` bits as the command word: the bits above `nbits` are 0. -/
def tableWord (nbits w : Nat) : Word := BitVec.ofNat 32 (w % 2 ^ nbits)

/-- The decoder applied to the bits of a row of spec/opcode_table.json. A word is 32 bits (R60): longer rows have none. -/
def decodeTableWord (nbits w : Nat) : Option Instr :=
  if nbits ≤ 32 then (decode (tableWord nbits w)).toOption else none

end Sys2Proof
end

