-- ==== Sys2Proof/Machine/State.lean ====
section
/-!
DEFINITION. The state of `poly1305_core`: the context slot (R20 to R25), the ports between the host and the core at the
level of transactions (R30), and the host, the second agent of the spec, as the list of what it will do and the list of
what it has been answered. There is no memory, register file, program counter, mode or interrupt state (R33, R40, R175).
-/

namespace Sys2Proof.Machine

/-- One response (R67): the word `RSP[7:0]` and the bus `TAGOUT[127:0]`. -/
structure Response where
  rsp : BitVec 8
  tagOut : U128
  deriving DecidableEq, Repr

/-- One thing the host may do (R192; notes/assumptions/5.md). -/
inductive HostAction where
  /-- Present a command word on `CMD`, with what stands on `KEY` and `TAGIN` (R30). -/
  | present (cmd : Word) (key : KeyBus) (tagIn : U128)
  /-- Supply message bytes on `DIN`, first byte first (R45). -/
  | supply (bytes : List Byte)
  /-- Take the response the core presents (R30, R190). If it carries an error, the host leaves out its next
  `skipOnError` actions: the error is surfaced to the caller, who chooses what comes next (R164, R169). -/
  | take (skipOnError : Nat)
  /-- Let time pass (R193). -/
  | wait
  /-- Assert `rst` (R185). -/
  | reset
  deriving DecidableEq, Repr

/-- The machine. The first six fields are the registers of R20; the next five are the ports of R30 (`clk` carries
nothing in a model without time, `rst` is the action `HostAction.reset`); then the host; the last is the model's own. -/
structure State where
  /-- `VALID`: the slot holds a context (R21). -/
  valid : Bool
  /-- `R`: the clamped multiplier (R22). -/
  regR : U128
  /-- `S`: the mask (R23). -/
  regS : U128
  /-- `H`: the accumulator, the canonical representative (R24). -/
  regH : FieldElem
  /-- `BUF`: the pending bytes, oldest first (R25). -/
  buf : List Byte
  /-- `BUFLEN`: how many they are, 0..15 (R25). -/
  bufLen : BitVec 4
  /-- `CMD`: the command presented and not yet answered, if any (R30, R190). -/
  cmd : Option Word
  /-- `KEY` (R30). -/
  key : KeyBus
  /-- `TAGIN` (R30). -/
  tagIn : U128
  /-- `DIN`: the bytes supplied and not yet removed, oldest first (R45). -/
  din : List Byte
  /-- `RSP` and `TAGOUT`: the response presented and not yet taken; between responses they carry nothing defined (R31). -/
  out : Option Response
  /-- What the host will do, next action first (R185, R192). -/
  host : List HostAction
  /-- The responses the host has taken, oldest first. -/
  received : List Response
  /-- The model's own: how often `rst` has been asserted, the index of the free values of Config. -/
  resets : Nat
  deriving DecidableEq, Repr

/-- Why a step can stop with a fault. The spec gives the machine no such event: every error is a status code in a
response, after which the core goes on (R160 to R164). No step raises one; the type has no constructor. -/
inductive Fault where
  deriving DecidableEq, Repr

/-- Why a step can be refused. -/
inductive Refusal where
  /-- Raised by an arm of `exec` for a command that has no meaning yet. Safe: the machine stops. No arm raises it now. -/
  | notModelled (mnemonic : String)
  /-- Raised by `step` when the host presents a command before the response to the one before it has been taken; the
  spec gives such a sequence no meaning (R190, U11 of spec/93_implementation_defined.md). Safe: the machine stops. -/
  | overlappingCommand
  deriving DecidableEq, Repr

/-- The machine right after reset (R32, R185): no context, idle. The spec leaves the data registers unspecified; the
values here are the model's, DESIGN CHOICE, notes/assumptions/1.md, and those of the ports notes/assumptions/9.md. -/
def State.reset : State where
  valid := false
  regR := 0#128
  regS := 0#128
  regH := ⟨0, fieldPrime_pos⟩
  buf := []
  bufLen := 0#4
  cmd := none
  key := 0#256
  tagIn := 0#128
  din := []
  out := none
  host := []
  received := []
  resets := 0

end Sys2Proof.Machine
end

