-- ==== Sys2Proof/Machine/Flags.lean ====
section
/-!
DEFINITION. The status codes (R161) and the response word (R67). The hardware has no condition codes (R33); its one
flag, `VALID`, is a field of State that Machine/Ops.lean writes.
-/

namespace Sys2Proof.Machine

/-- The statuses a command can end with (R161). -/
inductive Status where
  | ok
  | invalidKeySize
  | noContext
  | illegalCmd
  deriving DecidableEq, Repr

/-- The code in `RSP[3:0]` (R161). -/
def statusCode : Status → BitVec 4
  | .ok => 0x0#4
  | .invalidKeySize => 0x1#4
  | .noContext => 0x2#4
  | .illegalCmd => 0x3#4

/-- `RSP[7:0]`: `STATUS` in bits 3..0, `MATCH` in bit 4, zero in bits 7..5 (R67). -/
def rspWord (st : Status) (matched : Bool) : BitVec 8 :=
  0#3 ++ (BitVec.ofBool matched ++ statusCode st)

/-- `STATUS = RSP[3:0]` (R67). -/
def Response.status (r : Response) : BitVec 4 := r.rsp.extractLsb' 0 4

/-- `MATCH = RSP[4]` (R67). -/
def Response.matched (r : Response) : Bool := r.rsp.getLsbD 4

/-- The response carries an error: `STATUS` is not `OK` (R161). -/
def Response.failed (r : Response) : Bool := r.status != statusCode .ok

/-- `respond(OK, TAG, MATCH)`'s response (R67). -/
def okResponse (matched : Bool) (tagOut : U128) : Response := ⟨rspWord .ok matched, tagOut⟩

/-- The response of a command that raises `st`: `MATCH = 0`, `TAGOUT = 0` (R67, R161). -/
def errorResponse (st : Status) : Response := ⟨rspWord st false, 0#128⟩

end Sys2Proof.Machine
end

