-- ==== Sys2Proof/Machine/Operands.lean ====
section
/-!
DEFINITION. The operand forms: little-endian conversion (R86, R87), the byte view of a bus (R41), the key halves (R42,
R101), the candidate (R140) and the message stream (R45).
-/

namespace Sys2Proof.Machine

/-- `le(b) = Σ b[i] * 2^(8i)` (R86). -/
def le : List Byte → Nat
  | [] => 0
  | b :: bs => b.toNat + 2 ^ 8 * le bs

/-- `tole_n(v)`, the `n` bytes of `v`, least significant first (R87). -/
def tole : Nat → Nat → List Byte
  | 0, _ => []
  | n + 1, v => BitVec.ofNat 8 v :: tole n (v / 2 ^ 8)

/-- A 16-byte string as the integer its bus carries (R41). -/
def u128OfBytes (bs : List Byte) : U128 := BitVec.ofNat 128 (le bs)

/-- The integer of the `r` half of the key, `le(k[0..16)) = KEY[127:0]` (R41, R42, R100). -/
def keyRHalf (key : KeyBus) : U128 := key.extractLsb' 0 128

/-- The integer of the `s` half of the key, `le(k[16..32)) = KEY[255:128]` (R41, R42, R100). -/
def keySHalf (key : KeyBus) : U128 := key.extractLsb' 128 128

/-- The key bytes `k[0..32)` on `KEY`, `k[i] = KEY[8i+7:8i]` (R41). -/
def keyBytes (key : KeyBus) : List Byte := tole 32 key.toNat

/-- The candidate bytes `t[0..16)` on `TAGIN`, `t[i] = TAGIN[8i+7:8i]` (R140). -/
def tagInBytes (tagIn : U128) : List Byte := tole Config.tagBytes tagIn.toNat

/-- `DIN` holds fewer than `n` bytes (R45, R191). -/
def State.dinShort (s : State) (n : Nat) : Bool := decide (s.din.length < n)

/-- The bytes `DinRead(n)` returns: the oldest `n` bytes of `DIN`, oldest first (R45). -/
def State.dinBytes (s : State) (n : Nat) : List Byte := s.din.take n

end Sys2Proof.Machine
end

