-- ==== Sys2Proof/Machine/Ops.lean ====
section
/-!
DEFINITION. The named operations on the state: the register writes of the commands, the response, the error (what this
hardware has in place of an exception: R163; there is no return from it: R169), reset (R185), and the host's moves.
-/

namespace Sys2Proof.Machine

/-- The register writes of a successful `INIT` (R26, R100): all six together. -/
def State.loadContext (s : State) (r mask : U128) : State :=
  { s with valid := true, regR := r, regS := mask, regH := feZero, buf := [], bufLen := 0#4 }

/-- The register writes of `UPDATE` (R110): `H`, `BUF`, and `BUFLEN` the length of `BUF`. -/
def State.writeAccumulator (s : State) (h : FieldElem) (w : List Byte) : State :=
  { s with regH := h, buf := w, bufLen := BitVec.ofNat 4 w.length }

/-- The effect of `DinRead(n)` on the stream: its oldest `n` bytes are gone (R45). -/
def State.dinDrop (s : State) (n : Nat) : State := { s with din := s.din.drop n }

/-- The command ends and its response is presented (R30, R67). -/
def State.respond (s : State) (r : Response) : State := { s with cmd := none, out := some r }

/-- `raise st`: the command ends with that error and writes no register (R163). The one operation behind every error. -/
def State.raise (s : State) (st : Status) : State := s.respond (errorResponse st)

/-- How many bytes the command word on `CMD` takes from `DIN` (R69): `LEN` for a legal `UPDATE`, none for any other. -/
def payloadLength (w : Word) : Nat :=
  match decode w with
  | .legal (.update len) => len
  | _ => 0

/-- The command presented is an `UPDATE` whose payload is not all on `DIN` yet: the core waits (R45, R191). -/
def State.starved (s : State) (w : Word) : Bool := s.dinShort (payloadLength w)

/-- The contents of the registers, for the free values of a reset. -/
def State.registers (s : State) : Config.Registers := ⟨s.valid, s.regR, s.regS, s.regH, s.buf, s.bufLen⟩

/-- The registers a command may read: none while `VALID = 0` (R21). -/
def State.readableRegisters (s : State) : Option Config.Registers := if s.valid then some s.registers else none

/-- What stands on the ports, for the free values of a reset. -/
def State.ports (s : State) : Config.Ports :=
  ⟨s.cmd, s.key, s.tagIn, s.din, s.out.map fun r => (r.rsp, r.tagOut)⟩

/-- How many bytes of `DIN` a reset loses: of the payload of the `UPDATE` in progress, a free part (R185). That they are
the oldest on `DIN`, and that the others stay, is the model's choice, notes/assumptions/3.md. -/
def State.resetLoss (s : State) : Nat :=
  match s.cmd with
  | none => 0
  | some w => min (Config.resetConsumed s.resets s.readableRegisters s.ports) (payloadLength w)

/-- `rst` is asserted (R32, R185): `VALID = 0`, the other registers unspecified, a command in progress abandoned without
response. Whether what they hold afterwards depends on what they held before, the key gone or surviving, the spec leaves
open, and so does the model: the free values take the old contents as arguments. The form of those free values is its
DESIGN CHOICE, notes/assumptions/2.md; that a response not yet taken is withdrawn is notes/assumptions/4.md. -/
def State.assertReset (s : State) : State :=
  { s with
    valid := false
    regR := Config.resetR s.resets s.registers s.ports
    regS := Config.resetS s.resets s.registers s.ports
    regH := feCanon (Config.resetH s.resets s.registers s.ports)
    buf := (List.range (Config.resetBufLen s.resets s.registers s.ports).toNat).map
      (Config.resetBuf s.resets s.registers s.ports)
    bufLen := Config.resetBufLen s.resets s.registers s.ports
    cmd := none
    din := s.din.drop s.resetLoss
    out := none
    resets := s.resets + 1 }

/-- The core cannot take a command: one is in progress, or its response has not been taken (R190). -/
def State.busy (s : State) : Bool := s.cmd.isSome || s.out.isSome

/-- The host has done its next action; `rest` is what it will do after it. -/
def State.hostRest (s : State) (rest : List HostAction) : State := { s with host := rest }

/-- The host puts a command on the port (R30). -/
def State.presentCommand (s : State) (w : Word) (key : KeyBus) (tagIn : U128) : State :=
  { s with cmd := some w, key := key, tagIn := tagIn }

/-- The host appends bytes to the message stream (R45). -/
def State.supplyDin (s : State) (bytes : List Byte) : State := { s with din := s.din ++ bytes }

/-- The host takes the response `r` (R30). -/
def State.takeResponse (s : State) (r : Response) : State :=
  { s with out := none, received := s.received ++ [r] }

/-- What the host will do after it has taken the response `r`, having meant to do `rest`: on an error it leaves out the
next `skip` actions (R164, R169). -/
def actionsAfter (r : Response) (skip : Nat) (rest : List HostAction) : List HostAction :=
  if r.failed then rest.drop skip else rest

/-- The host's next action is to assert `rst`. -/
def State.resetNext (s : State) : Bool :=
  match s.host with
  | .reset :: _ => true
  | _ => false

/-- The host does its next action (R192). With none left, or a response awaited that is not there, nothing changes. A
command presented while the core is busy has no meaning (R190, U11). -/
def hostMove (s : State) : Host.Outcome State Fault Refusal :=
  match s.host with
  | [] => .next s
  | .reset :: rest => .next (s.assertReset.hostRest rest)
  | .wait :: rest => .next (s.hostRest rest)
  | .supply bytes :: rest => .next ((s.supplyDin bytes).hostRest rest)
  | .take skip :: rest =>
    match s.out with
    | none => .next s
    | some r => .next ((s.takeResponse r).hostRest (actionsAfter r skip rest))
  | .present w key tagIn :: rest =>
    if s.busy then .refused .overlappingCommand
    else .next ((s.presentCommand w key tagIn).hostRest rest)

end Sys2Proof.Machine
end

