-- ==== Sys2Proof/Machine/Clamper.lean ====
section
/-!
DEFINITION. poly1305_clamper and the command `INIT` (spec/41_clamper_init.md).
-/

namespace Sys2Proof.Machine

/-- The clamp mask `0x0ffffffc_0ffffffc_0ffffffc_0fffffff` (R102; conflict C1 settled by spec/90_conflicts.md). -/
def clampMask : U128 := 0x0ffffffc0ffffffc0ffffffc0fffffff#128

/-- Clamping, a 128-bit and (R102). -/
def clamp (rh : U128) : U128 := rh &&& clampMask

/-- The `R` a key gives: its `r` half, clamped (R100, R102). -/
def keyR (key : KeyBus) : U128 := clamp (keyRHalf key)

/-- The `S` a key gives: its `s` half, unmodified (R100, R104). -/
def keyS (key : KeyBus) : U128 := keySHalf key

/-- `INIT KLEN` (R100): `INVALID_KEY_SIZE` and no change unless `KLEN = 256` (R106), else the context of the key on
`KEY`, whatever the slot held (R107). -/
def execInit (klen : Nat) (s : State) : Host.Outcome State Fault Refusal :=
  if klen ≠ Config.keyBits then .next (s.raise .invalidKeySize)
  else .next ((s.loadContext (keyR s.key) (keyS s.key)).respond (okResponse false 0#128))

end Sys2Proof.Machine
end

