-- ==== Sys2Proof/Machine/Accumulator.lean ====
section
/-!
DEFINITION. poly1305_accumulator and the command `UPDATE` (spec/42_accumulator_update.md).
-/

namespace Sys2Proof.Machine

/-- A block value with its marker bit at 8 times the block's length: `c = le(b) + 2^(8|b|)`. For a full block of 16
bytes this is `le(b) + 2^128` (R111), for a short one of `L` bytes `le(b) + 2^(8L)` (R127). -/
def blockValue (b : List Byte) : Nat := le b + 2 ^ (8 * b.length)

/-- The fold `((h + c) mod p) * R mod p`, add then multiply (R112). -/
def foldBlock (r : U128) (h : FieldElem) (c : Nat) : FieldElem :=
  feMul (feAdd h (toField c)) (toField r.toNat)

/-- The loop of R110: fold the first `n` blocks of `w`, and give the accumulator and the bytes left. -/
def absorb (r : U128) : Nat → FieldElem → List Byte → FieldElem × List Byte
  | 0, h, w => (h, w)
  | n + 1, h, w => absorb r n (foldBlock r h (blockValue (w.take Config.blockBytes))) (w.drop Config.blockBytes)

/-- All full blocks of `w`, `floor(|w| / 16)` of them (R110). -/
def absorbAll (r : U128) (h : FieldElem) (w : List Byte) : FieldElem × List Byte :=
  absorb r (w.length / Config.blockBytes) h w

/-- `UPDATE LEN` (R110): the core waits while `DIN` holds fewer than `LEN` bytes (R45, R191); then the bytes are
removed, and without a context the command raises `NO_CONTEXT` (R116). -/
def execUpdate (len : Nat) (s : State) : Host.Outcome State Fault Refusal :=
  if s.dinShort len then .next s
  else if s.valid = false then .next ((s.dinDrop len).raise .noContext)
  else
    let folded := absorbAll s.regR s.regH (s.buf ++ s.dinBytes len)
    .next (((s.dinDrop len).writeAccumulator folded.1 folded.2).respond (okResponse false 0#128))

end Sys2Proof.Machine
end

