-- ==== Sys2Proof/Machine/Finalizer.lean ====
section
/-!
DEFINITION. poly1305_finalizer, the function `Tag` and the command `FINAL` (spec/43_finalizer_final.md).
-/

namespace Sys2Proof.Machine

/-- The copy of `h` with the short block folded in, if there is one (R125, R127); an empty buffer folds nothing (R133). -/
def foldPending (r : U128) (h : FieldElem) (buf : List Byte) (bufLen : BitVec 4) : FieldElem :=
  if 0 < bufLen.toNat then foldBlock r h (le (buf.take bufLen.toNat) + 2 ^ (8 * bufLen.toNat)) else h

/-- `Tag(R, S, H, BUF, BUFLEN)`, 16 bytes (R125): fold, full reduction (R128), truncation (R129), mask (R130),
serialization (R131). -/
def tag (r mask : U128) (h : FieldElem) (buf : List Byte) (bufLen : BitVec 4) : List Byte :=
  tole Config.tagBytes (u128Add (trunc128 (feCanon (foldPending r h buf bufLen).val)) mask).toNat

/-- The tag of the message accumulated so far. -/
def State.tag (s : State) : List Byte := Machine.tag s.regR s.regS s.regH s.buf s.bufLen

/-- `FINAL` (R126): outputs the tag and writes no register. -/
def execFinal (s : State) : Host.Outcome State Fault Refusal :=
  if s.valid = false then .next (s.raise .noContext)
  else .next (s.respond (okResponse false (u128OfBytes s.tag)))

end Sys2Proof.Machine
end

