-- ==== Sys2Proof/Machine/Verifier.lean ====
section
/-!
DEFINITION. poly1305_verifier and the command `VERIFY` (spec/44_verifier_verify.md).
-/

namespace Sys2Proof.Machine

/-- What a comparison has found: the or of the byte differences (R140), and how many byte pairs it has examined, the
`cost` of R143. -/
structure Comparison where
  diff : Byte
  cost : Nat
  deriving DecidableEq, Repr

/-- One byte pair (R140). -/
def compareByte (c : Comparison) (pair : Byte × Byte) : Comparison :=
  ⟨c.diff ||| (pair.1 ^^^ pair.2), c.cost + 1⟩

/-- The comparison of R140: every byte pair, with no early exit (R142). -/
def compareTags (computed cand : List Byte) : Comparison :=
  (computed.zip cand).foldl compareByte ⟨0#8, 0⟩

/-- The comparison that `VERIFY` makes in a state. -/
def State.comparison (s : State) : Comparison := compareTags s.tag (tagInBytes s.tagIn)

/-- `VERIFY` (R140): `MATCH` says whether the candidate on `TAGIN` is the tag; the tag is not output (R147). -/
def execVerify (s : State) : Host.Outcome State Fault Refusal :=
  if s.valid = false then .next (s.raise .noContext)
  else .next (s.respond (okResponse (s.comparison.diff == 0#8) 0#128))

end Sys2Proof.Machine
end

