-- ==== Sys2Proof/Machine/Dispatch.lean ====
section
/-!
DEFINITION. One arm per command, each one call of its meaning.
-/

namespace Sys2Proof.Machine

def exec (i : Instr) (s : State) : Host.Outcome State Fault Refusal :=
  match i with
  | .init klen => Sys2Proof.Machine.execInit klen s
  | .update len => Sys2Proof.Machine.execUpdate len s
  | .final => Sys2Proof.Machine.execFinal s
  | .verify => Sys2Proof.Machine.execVerify s

end Sys2Proof.Machine
end

