-- ==== Sys2Proof/Machine/Step.lean ====
section
/-!
DEFINITION. One step of the machine: the core performs the command on its port as one atomic step (R30, R48), or the
host moves. Which of the two moves is notes/assumptions/6.md.
-/

namespace Sys2Proof.Machine

/-- The core performs the command word presented: a legal one by its meaning, an illegal one by `ILLEGAL_CMD` (R66,
R166). -/
def runCommand (w : Word) (s : State) : Host.Outcome State Fault Refusal :=
  match decode w with
  | .legal i => exec i s
  | .illegal _ => .next (s.raise .illegalCmd)

/-- One step. A reset that stands next lands at once (R185). Otherwise a command presented is performed, unless it waits
for its payload (R191); the host moves when there is none, or while it waits. -/
def step (s : State) : Host.Outcome State Fault Refusal :=
  if s.resetNext then hostMove s
  else
    match s.cmd with
    | none => hostMove s
    | some w =>
      if s.out.isSome then .refused .overlappingCommand
      else if s.starved w then hostMove s
      else runCommand w s

/-- The word of a table row presented on an idle port, the host doing nothing more: the next step runs it. -/
def State.withFetchWord (s : State) (nbits w : Nat) : State :=
  { s with cmd := some (tableWord nbits w), out := none, host := [] }

end Sys2Proof.Machine
end

