-- ==== Sys2Proof/Machine/OneShot.lean ====
section
/-!
DEFINITION. The pseudo-command `MAC` (R72, R150) and the one-shot form with any declared key length (R151): they have no
encoding; they are what a host does with the four commands.
-/

namespace Sys2Proof.Machine

/-- `INIT klen, key` and its response taken; on an error the next `skip` actions are left out. `TAGIN`, which `INIT` does
not sample (R69), carries 0: DESIGN CHOICE, notes/assumptions/22.md. -/
def initActions (klen : Nat) (key : KeyBus) (skip : Nat) : List HostAction :=
  [.present (encode (.init klen)) key 0#128, .take skip]

/-- `UPDATE` of one chunk and its response taken. The bytes are supplied before the word, and `KEY` and `TAGIN`, which
`UPDATE` does not sample (R69), carry 0: DESIGN CHOICE, notes/assumptions/22.md. -/
def updateActions (chunk : List Byte) : List HostAction :=
  [.supply chunk, .present (encode (.update chunk.length)) 0#256 0#128, .take 0]

/-- `FINAL` and its response taken. `KEY` and `TAGIN`, which `FINAL` does not sample (R69), carry 0: DESIGN CHOICE,
notes/assumptions/22.md. -/
def finalActions : List HostAction := [.present (encode .final) 0#256 0#128, .take 0]

/-- A message cut into chunks of at most `MAXLEN` bytes, none for the empty message (R150); at most `fuel` chunks. -/
def chunksUpTo : Nat → List Byte → List (List Byte)
  | 0, _ => []
  | fuel + 1, msg =>
    if msg.isEmpty then []
    else msg.take Config.maxLen :: chunksUpTo fuel (msg.drop Config.maxLen)

/-- The chunks of a message: it has fewer of them than bytes, so the fuel is enough. -/
def macChunks (msg : List Byte) : List (List Byte) := chunksUpTo msg.length msg

/-- The `UPDATE`s of a message and the `FINAL` after them (R150). -/
def messageActions (msg : List Byte) : List HostAction := (macChunks msg).flatMap updateActions ++ finalActions

/-- The one-shot form with the declared key length `klen`: if its `INIT` fails, it issues no `UPDATE` and no `FINAL`
(R151). -/
def oneShotActions (klen : Nat) (key : KeyBus) (msg : List Byte) : List HostAction :=
  initActions klen key (messageActions msg).length ++ messageActions msg

/-- `MAC key, msg` (R150): the one-shot form with `KLEN = 256`. -/
def macActions (key : KeyBus) (msg : List Byte) : List HostAction := oneShotActions Config.keyBits key msg

end Sys2Proof.Machine
end

