-- ==== Sys2Proof/Safety.lean ====
section
/-!
DEFINITION. The terms in which statements are made: the invariant of the state, the tag as plain arithmetic on
non-negative integers, what it is for a state to hold the context of a key and a message, and what a host can tell
apart. The arithmetic here is written apart from the machine's own, so that a statement compares two things.
-/

namespace Sys2Proof.Safety

open Sys2Proof.Machine

/-- The bits of `R` that are always zero (R22): the complement of the clamp mask. -/
def clampedBits : U128 := 0xf0000003f0000003f0000003f0000000#128

/-- What holds of every state a run reaches: a context's `R` is clamped (R22), `BUF` is a string of length `BUFLEN`
(R25), and there is one command at a time (R190). -/
abbrev Inv (s : State) : Prop :=
  (s.valid = true → s.regR &&& clampedBits = 0#128) ∧
  s.buf.length = s.bufLen.toNat ∧
  (s.cmd.isSome = true → s.out = none)

/-- Two states hold the same six registers (R20). -/
abbrev SameContext (s t : State) : Prop :=
  t.valid = s.valid ∧ t.regR = s.regR ∧ t.regS = s.regS ∧ t.regH = s.regH ∧ t.buf = s.buf ∧ t.bufLen = s.bufLen

/-- Two states agree on all that is no register, no command and no response: what stands on `KEY`, `TAGIN` and `DIN`,
the host, and the model's own counter. -/
abbrev SameSurroundings (s t : State) : Prop :=
  t.key = s.key ∧ t.tagIn = s.tagIn ∧ t.din = s.din ∧ t.host = s.host ∧ t.received = s.received ∧ t.resets = s.resets

/-- Two states that agree on everything but registers that hold no context: equal but for `R`, `S`, `H`, `BUF` and
`BUFLEN` while `VALID = 0` (R21, R34, R165). -/
abbrev SameView (s t : State) : Prop :=
  s.valid = t.valid ∧ (s.valid = true → SameContext s t) ∧
  t.cmd = s.cmd ∧ t.out = s.out ∧ SameSurroundings s t

/-- The value of a full block: its integer and the marker `2^128` (R111). -/
def markedBlock (b : List Byte) : Nat := le b + 2 ^ 128

/-- The values `c_1 .. c_n` of the full 16-byte blocks of a byte string (R111). -/
def blockValues (m : List Byte) : List Nat :=
  (List.range (m.length / 16)).map fun i => markedBlock ((m.drop (16 * i)).take 16)

/-- The bytes after the last full block (R113). -/
def tailBytes (m : List Byte) : List Byte := m.drop (16 * (m.length / 16))

/-- The fold of R112 from `h` over block values, on plain integers: add, then multiply, modulo `p`. -/
def polyFold (r h : Nat) (cs : List Nat) : Nat :=
  cs.foldl (fun h c => (h + c) % (2 ^ 130 - 5) * r % (2 ^ 130 - 5)) h

/-- The accumulator with the `len` pending bytes folded in, marker `2^(8*len)`, if there are any (R125, R127, R133). -/
def pendingFold (r h : Nat) (pending : List Byte) (len : Nat) : Nat :=
  if 0 < len then (h + (le pending + 2 ^ (8 * len))) % (2 ^ 130 - 5) * r % (2 ^ 130 - 5) else h

/-- The 128-bit integer of `Tag` (R125) on plain integers: full reduction, truncation, mask. -/
def tagValue (r mask h : Nat) (pending : List Byte) (len : Nat) : Nat :=
  (pendingFold r h pending len % (2 ^ 130 - 5) % 2 ^ 128 + mask) % 2 ^ 128

/-- The tag value of the registers of a state. -/
def State.tagValue (s : State) : Nat :=
  Safety.tagValue s.regR.toNat s.regS.toNat s.regH.val (s.buf.take s.bufLen.toNat) s.bufLen.toNat

/-- The clamped multiplier of a key (R102), on plain integers: `KEY[127:0]` and the mask. -/
def keyMultiplier (key : KeyBus) : Nat := (key.toNat % 2 ^ 128) &&& 0x0ffffffc0ffffffc0ffffffc0fffffff

/-- The mask of a key (R104): `KEY[255:128]`. -/
def keyMask (key : KeyBus) : Nat := key.toNat / 2 ^ 128

/-- The accumulator after a message under a key (R150): `H_n`. -/
def macAccumulator (key : KeyBus) (msg : List Byte) : Nat := polyFold (keyMultiplier key) 0 (blockValues msg)

/-- `MAC(key, msg)` (R150), the tag as the integer on `TAGOUT`. -/
def macValue (key : KeyBus) (msg : List Byte) : Nat :=
  tagValue (keyMultiplier key) (keyMask key) (macAccumulator key msg) (tailBytes msg) (msg.length % 16)

/-- The registers hold the context of a key and a message: what R26 and R114 say they hold after `INIT` with the key and
`UPDATE`s of the message in any chunks. -/
abbrev Represents (s : State) (key : KeyBus) (msg : List Byte) : Prop :=
  s.valid = true ∧ s.regR.toNat = keyMultiplier key ∧ s.regS.toNat = keyMask key ∧
  s.regH.val = macAccumulator key msg ∧ s.buf = tailBytes msg ∧ s.bufLen.toNat = msg.length % 16

/-- A context, if there is one, is that of some key and some message. -/
def HoldsSomeContext (s : State) : Prop := s.valid = true → ∃ key msg, Represents s key msg

/-- The state a command leaves, if it leaves one. -/
def issue (i : Instr) (s : State) : Option State :=
  match exec i s with
  | .next t => some t
  | .fault _ => none
  | .refused _ => none

/-- `UPDATE` of one chunk, its bytes alone on `DIN`. -/
def feed (s : State) (chunk : List Byte) : Option State := issue (.update chunk.length) { s with din := chunk }

/-- `UPDATE` of each chunk in turn. -/
def feedAll : State → List (List Byte) → Option State
  | s, [] => some s
  | s, c :: cs =>
    match feed s c with
    | some t => feedAll t cs
    | none => none

/-- `k` steps, if none of them stops. -/
def runSteps : Nat → State → Option State
  | 0, s => some s
  | k + 1, s =>
    match step s with
    | .next t => runSteps k t
    | .fault _ => none
    | .refused _ => none

/-- The status of R168 and R161 for a command word in a state with `VALID = valid`, as the number in `RSP[3:0]`:
`ILLEGAL_CMD` first, from the word alone, then the one check of the command. -/
def statusOf (w : Word) (valid : Bool) : Nat :=
  match decode w with
  | .illegal _ => 3
  | .legal (.init klen) => if klen = 256 then 0 else 1
  | .legal (.update _) => if valid then 0 else 2
  | .legal .final => if valid then 0 else 2
  | .legal .verify => if valid then 0 else 2

/-- The core performs the command word `w` in the next step: it is presented, no response is waiting, its payload is
all there, and no reset lands first. -/
abbrev Runs (s : State) (w : Word) : Prop :=
  s.resetNext = false ∧ s.cmd = some w ∧ s.out = none ∧ s.starved w = false

end Sys2Proof.Safety
end

