-- ==== Sys2Proof/Certificates/Slice0/Obligations.lean ====
section
/-!
DEFINITION. The statements for the provers, each formalising rules of spec/.
-/

section

open Sys2Proof Sys2Proof.Machine Sys2Proof.Safety

/-! ### Encoding -/

/-- R62 to R65: what the encoder writes is the word of the rule. -/
def Obligations.EncodingsAreTheWordsOfTheTable : Prop :=
  (∀ klen < 2 ^ 16, encode (.init klen) = 0x10000000#32 ||| BitVec.ofNat 32 klen) ∧
  (∀ len < 2 ^ 16, encode (.update len) = 0x20000000#32 ||| BitVec.ofNat 32 len) ∧
  encode .final = 0x30000000#32 ∧ encode .verify = 0x40000000#32

/-- Every well-formed command, with every argument, is decoded from its word (R60 to R65, R70). -/
def Obligations.DecodeOfEncode : Prop :=
  ∀ i : Instr, i.WellFormed → decode (encode i) = .legal i

/-- A legal word has one meaning and is that command's word, and its argument is in range (R60, R70). -/
def Obligations.EncodeOfDecode : Prop :=
  ∀ (w : Word) (i : Instr), decode w = .legal i → i.WellFormed ∧ encode i = w

/-- The match and mask of each row of the opcode table pick out exactly the words of its command (R62 to R65). -/
def Obligations.DecodeFollowsMatchAndMask : Prop :=
  ∀ w : Word,
    (decode w = .legal (.init (w.toNat % 65536)) ↔ w &&& 0xFFFF0000#32 = 0x10000000#32) ∧
    (decode w = .legal (.update (w.toNat % 65536)) ↔ w &&& 0xFFFF0000#32 = 0x20000000#32) ∧
    (decode w = .legal .final ↔ w = 0x30000000#32) ∧
    (decode w = .legal .verify ↔ w = 0x40000000#32)

/-- The words of R66, and no others, are illegal. -/
def Obligations.IllegalWordsAreThoseOfTheRule : Prop :=
  ∀ w : Word, (∃ why, decode w = .illegal why) ↔
    (w.toNat / 2 ^ 28 = 0 ∨ 5 ≤ w.toNat / 2 ^ 28 ∨ w.toNat / 2 ^ 16 % 2 ^ 12 ≠ 0 ∨
      (w.toNat / 2 ^ 28 = 3 ∧ w.toNat % 2 ^ 16 ≠ 0) ∨ (w.toNat / 2 ^ 28 = 4 ∧ w.toNat % 2 ^ 16 ≠ 0))

/-- Words of the decoding table of spec/95_test_vectors.md. -/
def Obligations.SampleWordsDecode : Prop :=
  decode 0x10000100#32 = .legal (.init 256) ∧ decode 0x10000080#32 = .legal (.init 128) ∧
  decode 0x20000000#32 = .legal (.update 0) ∧ decode 0x2000ffff#32 = .legal (.update 65535) ∧
  decode 0x30000000#32 = .legal .final ∧ decode 0x40000000#32 = .legal .verify ∧
  decode 0x00000000#32 = .illegal .reservedOp ∧ decode 0x10010100#32 = .illegal .reservedBits ∧
  decode 0x28000010#32 = .illegal .reservedBits ∧ decode 0x30000001#32 = .illegal .nonzeroArg ∧
  decode 0x4000ffff#32 = .illegal .nonzeroArg ∧ decode 0x50000000#32 = .illegal .reservedOp ∧
  decode 0xffffffff#32 = .illegal .reservedBits

/-! ### The step -/

/-- A command word on the port that decodes to a command, with its payload there, is performed by the command's meaning,
and the step does nothing around it. Which agent moves when is the model's choice (notes/assumptions/6.md). -/
def Obligations.StepRunsTheDecodedCommand : Prop :=
  ∀ (s : State) (w : Word) (i : Instr), Runs s w → decode w = .legal i → step s = exec i s

/-- R166: an illegal word ends with `ILLEGAL_CMD`, takes no payload, removes nothing from `DIN` and changes no state,
whatever `VALID` is. An illegal word never waits for a payload, so nothing is asked of `DIN`. -/
def Obligations.IllegalWordChangesNothing : Prop :=
  ∀ (s : State) (w : Word) (why : IllegalReason),
    decode w = .illegal why → s.cmd = some w → s.out = none → s.resetNext = false →
    step s = .next { s with cmd := none, out := some ⟨0x03#8, 0#128⟩ }

/-- R67, R31: every command performed, legal or not, ends in exactly one response, with `RSP[7:5] = 0`; `MATCH` is set
only by `VERIFY`, and `TAGOUT` is not zero only after `FINAL`. -/
def Obligations.EveryCommandGivesOneResponse : Prop :=
  ∀ (s : State) (w : Word), Runs s w →
    ∃ (t : State) (r : Response), step s = .next t ∧ t.cmd = none ∧ t.out = some r ∧ t.received = s.received ∧
      r.rsp.toNat < 2 ^ 5 ∧
      (r.rsp.getLsbD 4 = true → w = 0x40000000#32 ∧ s.valid = true) ∧
      (r.tagOut ≠ 0#128 → w = 0x30000000#32 ∧ s.valid = true)

/-- R161, R168: the status of every command performed, as a function of its word and of `VALID` alone. -/
def Obligations.StatusOfEveryCommand : Prop :=
  ∀ (s t : State) (w : Word), Runs s w → step s = .next t →
    ∃ r : Response, t.out = some r ∧ r.rsp.toNat % 2 ^ 4 = statusOf w s.valid

/-- R186: with no command presented and a host that does nothing, the core waits. -/
def Obligations.IdleCoreWaits : Prop :=
  ∀ s : State, s.cmd = none → s.host = [] → step s = .next s

/-- The host's moves on an idle port (R30, R45, R164, R169, R193), in the form the model chose for them, a list of actions
(notes/assumptions/5.md): presenting a command, supplying bytes, taking the response (and, on an error, leaving out the
actions it meant to), waiting. -/
def Obligations.HostMovesOnIdlePort : Prop :=
  ∀ (s : State) (rest : List HostAction), s.cmd = none →
    (∀ w key tagIn, s.out = none → s.host = .present w key tagIn :: rest →
      step s = .next { s with host := rest, cmd := some w, key := key, tagIn := tagIn }) ∧
    (∀ bytes, s.host = .supply bytes :: rest →
      step s = .next { s with host := rest, din := s.din ++ bytes }) ∧
    (∀ r skip, s.out = some r → s.host = .take skip :: rest →
      step s = .next { s with
        host := if r.rsp.toNat % 2 ^ 4 = 0 then rest else rest.drop skip
        out := none
        received := s.received ++ [r] }) ∧
    (s.host = .wait :: rest → step s = .next { s with host := rest })

/-- R45, R191: an `UPDATE` with fewer than `LEN` bytes on `DIN` does not complete: the core waits, for ever if the host
does nothing, and bytes the host supplies join the stream. That the host moves while the command waits is the model's
choice (notes/assumptions/6.md), and so is `DIN` as a list that keeps bytes supplied early (8.md). -/
def Obligations.StarvedUpdateWaits : Prop :=
  ∀ (s : State) (w : Word) (len : Nat),
    s.cmd = some w → decode w = .legal (.update len) → s.out = none → s.din.length < len →
    exec (.update len) s = .next s ∧
    (s.host = [] → step s = .next s) ∧
    (∀ bytes rest, s.host = .supply bytes :: rest →
      step s = .next { s with host := rest, din := s.din ++ bytes })

/-- R32, R185: `rst`, whenever it comes, clears `VALID`, ends a command in progress without a response, and loses at
most the payload of that command. Nothing is said of the other registers. The model's choices here, which no rule states:
that a reset standing next lands first (notes/assumptions/6.md), that what is lost comes off the front of `DIN` and the rest
stays (3.md), that a response not yet taken is withdrawn (4.md), and that `KEY` and `TAGIN` stand (9.md). -/
def Obligations.ResetClearsValidAndAbandons : Prop :=
  ∀ (s : State) (rest : List HostAction), s.host = .reset :: rest →
    ∃ (t : State) (lost : Nat), step s = .next t ∧ t.valid = false ∧ t.cmd = none ∧ t.out = none ∧
      t.host = rest ∧ t.received = s.received ∧ t.key = s.key ∧ t.tagIn = s.tagIn ∧
      t.din = s.din.drop lost ∧
      (s.cmd = none → lost = 0) ∧ (∀ w, s.cmd = some w → lost ≤ payloadLength w)

/-- R190: the only step that is refused is that of a host that presents a command while one is in progress or its
response has not been taken; on states a run reaches that is the whole of it. That such a step is refused, and its name, is
the model's choice (notes/assumptions/7.md). -/
def Obligations.OnlyOverlapIsRefused : Prop :=
  ∀ (s : State) (why : Refusal), Inv s →
    (step s = .refused why ↔
      why = .overlappingCommand ∧ (∃ w key tagIn rest, s.host = .present w key tagIn :: rest) ∧
        (s.out.isSome = true ∨ ∃ w, s.cmd = some w ∧ s.din.length < payloadLength w))

/-- R21, R185: in one step `VALID` goes from 1 to 0 only by reset, and from 0 to 1 only by `INIT` with `KLEN = 256`. -/
def Obligations.ValidChangesOnlyByInitAndReset : Prop :=
  ∀ s t : State, step s = .next t →
    (s.valid = true → t.valid = false → s.resetNext = true) ∧
    (s.valid = false → t.valid = true → Runs s 0x10000100#32)

/-- R22, R23, R117: but for reset, one step changes `R` or `S` only by `INIT` with `KLEN = 256`, and `H`, `BUF` or `BUFLEN`
only by that or by an `UPDATE` with a context. -/
def Obligations.OnlyInitAndUpdateWriteRegisters : Prop :=
  ∀ s t : State, step s = .next t → s.resetNext = false →
    (t.regR ≠ s.regR ∨ t.regS ≠ s.regS → Runs s 0x10000100#32) ∧
    (t.regH ≠ s.regH ∨ t.buf ≠ s.buf ∨ t.bufLen ≠ s.bufLen →
      Runs s 0x10000100#32 ∨ ∃ w len, Runs s w ∧ decode w = .legal (.update len) ∧ s.valid = true)

/-- R163: the state after a command that ended with an error is the state before it, but for the command and its response,
and for the `LEN` bytes that an `UPDATE` has removed from `DIN`. -/
def Obligations.ErrorsWriteNoRegister : Prop :=
  ∀ (s t : State) (w : Word) (r : Response), Runs s w → step s = .next t → t.out = some r →
    r.rsp.toNat % 2 ^ 4 ≠ 0 →
    t = { s with din := s.din.drop (payloadLength w), cmd := none, out := some r } ∧
    ((∀ len, decode w ≠ .legal (.update len)) → payloadLength w = 0) ∧
    (∀ len, decode w = .legal (.update len) → payloadLength w = len)

/-- R169: re-issuing a failing command in the state it left, its response taken and its payload on `DIN` again, fails the
same way. -/
def Obligations.RetryFailsIdentically : Prop :=
  ∀ (s t : State) (i : Instr) (r : Response), exec i s = .next t → t.out = some r → s.out = none →
    r.rsp.toNat % 2 ^ 4 ≠ 0 →
    ∃ t' : State, exec i { t with din := s.din, out := none } = .next t' ∧ t'.out = some r ∧ SameContext s t'

/-! ### INIT -/

/-- R100: `INIT` with `KLEN = 256`, in every state: all six registers are written, from the bus alone, and nothing else
but the command and its response changes. -/
def Obligations.InitLoadsTheContext : Prop :=
  ∀ s : State, exec (.init 256) s = .next { s with
    valid := true
    regR := s.key.extractLsb' 0 128 &&& 0x0ffffffc0ffffffc0ffffffc0fffffff#128
    regS := s.key.extractLsb' 128 128
    regH := ⟨0, fieldPrime_pos⟩
    buf := []
    bufLen := 0#4
    cmd := none
    out := some ⟨0x00#8, 0#128⟩ }

/-- R106, R167: `INIT` with any other `KLEN`, in every state, ends with `INVALID_KEY_SIZE`; `KEY` is not looked at and no
register changes. -/
def Obligations.InitRefusesOtherKeySizes : Prop :=
  ∀ (s : State) (klen : Nat), klen ≠ 256 →
    exec (.init klen) s = .next { s with cmd := none, out := some ⟨0x01#8, 0#128⟩ }

/-- R102: the clamp in the view of 32-bit words, `w_j = KEY[32j+31:32j]`. -/
def Obligations.ClampInTheWordView : Prop :=
  ∀ (s t : State), exec (.init 256) s = .next t →
    t.regR.toNat =
      (le ((keyBytes s.key).take 4) &&& 0x0FFFFFFF) +
      (le (((keyBytes s.key).drop 4).take 4) &&& 0x0FFFFFFC) * 2 ^ 32 +
      (le (((keyBytes s.key).drop 8).take 4) &&& 0x0FFFFFFC) * 2 ^ 64 +
      (le (((keyBytes s.key).drop 12).take 4) &&& 0x0FFFFFFC) * 2 ^ 96 ∧
    (∀ i < 128, t.regR.getLsbD i = true ↔
      s.key.getLsbD i = true ∧
        ¬ ((28 ≤ i ∧ i ≤ 31) ∨ (32 ≤ i ∧ i ≤ 33) ∨ (60 ≤ i ∧ i ≤ 63) ∨ (64 ≤ i ∧ i ≤ 65) ∨
          (92 ≤ i ∧ i ≤ 95) ∨ (96 ≤ i ∧ i ≤ 97) ∨ (124 ≤ i ∧ i ≤ 127)))

/-- R103: the clamp in the view of bytes. -/
def Obligations.ClampInTheByteView : Prop :=
  ∀ (s t : State), exec (.init 256) s = .next t →
    t.regR.toNat = le ((List.range 16).map fun i =>
      s.key.extractLsb' (8 * i) 8 &&&
        (if i % 4 = 3 then 0x0F#8 else if i = 4 ∨ i = 8 ∨ i = 12 then 0xFC#8 else 0xFF#8))

/-- R108: a clamped value is left as it is by clamping, and its first word has its top 4 bits zero, the others their top
4 and low 2. -/
def Obligations.ClampIsIdempotent : Prop :=
  ∀ rh : U128, clamp (clamp rh) = clamp rh ∧ clamp rh &&& clampedBits = 0#128 ∧ (clamp rh).toNat < 2 ^ 124

/-- R109: a key whose clamped multiplier is 0 gives the tag `S` for every message, and nothing is raised. -/
def Obligations.ZeroMultiplierGivesTheMask : Prop :=
  ∀ (s : State) (key : KeyBus) (msg : List Byte), Represents s key msg → s.regR = 0#128 →
    exec .final s = .next { s with cmd := none, out := some ⟨0x00#8, s.regS⟩ }

/-! ### UPDATE -/

/-- R110, R113: `UPDATE` with a context and its payload there. With `w = BUF ++ data`: `H` is the fold over the full blocks
of `w`, `BUF` the bytes after them, `BUFLEN` their number, `(BUFLEN + LEN) mod 16`; the `LEN` oldest bytes are gone from
`DIN`; nothing else changes but the command and its response. -/
def Obligations.UpdateFoldsTheBlocks : Prop :=
  ∀ (s : State) (len : Nat), s.valid = true → len ≤ s.din.length →
    exec (.update len) s = .next { s with
      regH := feCanon (polyFold s.regR.toNat s.regH.val (blockValues (s.buf ++ s.din.take len)))
      buf := tailBytes (s.buf ++ s.din.take len)
      bufLen := BitVec.ofNat 4 ((s.buf.length + len) % 16)
      din := s.din.drop len
      cmd := none
      out := some ⟨0x00#8, 0#128⟩ }

/-- R116: `UPDATE` without a context ends with `NO_CONTEXT`; its `LEN` bytes are gone from `DIN`; no register changes. -/
def Obligations.UpdateWithoutContextDiscards : Prop :=
  ∀ (s : State) (len : Nat), s.valid = false → len ≤ s.din.length →
    exec (.update len) s = .next { s with din := s.din.drop len, cmd := none, out := some ⟨0x02#8, 0#128⟩ }

/-- R115: `UPDATE` with `LEN = 0` removes nothing from `DIN` and leaves every register as it was; it answers `OK` with a
context and `NO_CONTEXT` without. -/
def Obligations.EmptyUpdateChangesNothing : Prop :=
  ∀ s : State, Inv s →
    exec (.update 0) s = .next { s with cmd := none, out := some ⟨if s.valid then 0x00#8 else 0x02#8, 0#128⟩ }

/-- R114: chunk boundaries carry no meaning. Two chunks leave the state of one, register for register; and after `INIT`
the message in any chunks leaves `BUFLEN`, `BUF` and `H` as its length, its last bytes and its full blocks say. -/
def Obligations.ChunkingEquivalence : Prop :=
  (∀ (s : State) (a b : List Byte), s.valid = true →
    ∃ s1 s2 s3 : State, feed s a = some s1 ∧ feed s1 b = some s2 ∧ feed s (a ++ b) = some s3 ∧ SameContext s3 s2) ∧
  (∀ (s s0 : State) (chunks : List (List Byte)), issue (.init 256) s = some s0 →
    ∃ t : State, feedAll s0 chunks = some t ∧
      t.valid = true ∧ t.regR = s0.regR ∧ t.regS = s0.regS ∧
      t.bufLen.toNat = chunks.flatten.length % 16 ∧
      t.buf = chunks.flatten.drop (chunks.flatten.length - chunks.flatten.length % 16) ∧
      t.regH.val = polyFold s0.regR.toNat 0 (blockValues chunks.flatten))

/-- R112: add then multiply; the reduction between does not matter, the order does; and the closed form
`c_1 * R^n + … + c_n * R` modulo `p`. -/
def Obligations.FoldIsThePolynomial : Prop :=
  (∀ (r : U128) (h : FieldElem) (c : Nat),
    (foldBlock r h c).val = (h.val + c) % (2 ^ 130 - 5) * r.toNat % (2 ^ 130 - 5) ∧
    (foldBlock r h c).val = (h.val + c) * r.toNat % (2 ^ 130 - 5)) ∧
  (∃ (r : U128) (h : FieldElem) (c : Nat), (foldBlock r h c).val ≠ (h.val * r.toNat + c) % (2 ^ 130 - 5)) ∧
  (∀ (r : Nat) (cs : List Nat), polyFold r 0 cs % (2 ^ 130 - 5) =
    ((List.range cs.length).map fun i => cs.getD i 0 * r ^ (cs.length - i)).sum % (2 ^ 130 - 5))

/-- R111: a full block's value is that of the block with a byte `01` after it; its bit 128 is set and no higher one. -/
def Obligations.FullBlockMarker : Prop :=
  ∀ b : List Byte, b.length = 16 →
    blockValue b = le b + 2 ^ 128 ∧ blockValue b = le (b ++ [1]) ∧
    2 ^ 128 ≤ blockValue b ∧ blockValue b < 2 ^ 129 ∧ (toField (blockValue b)).val = blockValue b

/-- R127: the short block that `FINAL` and `VERIFY` fold in has the value of the pending bytes with a byte `01` after them,
by the same step as a full block; the marker is the bit at 8 times their number, and `2^128` is not added. -/
def Obligations.ShortBlockMarker : Prop :=
  ∀ (r : U128) (h : FieldElem) (buf : List Byte) (bufLen : BitVec 4),
    0 < bufLen.toNat → buf.length = bufLen.toNat →
    foldPending r h buf bufLen = foldBlock r h (le (buf ++ [1])) ∧
    (foldPending r h buf bufLen).val =
      (h.val + (le buf + 2 ^ (8 * bufLen.toNat))) % (2 ^ 130 - 5) * r.toNat % (2 ^ 130 - 5) ∧
    le (buf ++ [1]) = le buf + 2 ^ (8 * bufLen.toNat) ∧
    2 ^ (8 * bufLen.toNat) ≤ le (buf ++ [1]) ∧ le (buf ++ [1]) < 2 ^ (8 * bufLen.toNat + 1) ∧
    le (buf ++ [1]) < 2 ^ 121 ∧ (toField (le (buf ++ [1]))).val = le (buf ++ [1])

/-! ### FINAL -/

/-- R126: `FINAL` with a context answers `OK` with the tag of the registers (R125) and writes no register. -/
def Obligations.FinalOutputsTheTag : Prop :=
  ∀ s : State, s.valid = true →
    exec .final s = .next { s with cmd := none, out := some ⟨0x00#8, BitVec.ofNat 128 (State.tagValue s)⟩ }

/-- R131: the tag is 16 bytes, and byte `i` is bits `8i+7 : 8i` of the integer on `TAGOUT`. -/
def Obligations.TagIsSixteenBytes : Prop :=
  ∀ s : State, s.tag.length = 16 ∧
    (∀ i < 16, (s.tag.getD i 0).toNat = State.tagValue s / 2 ^ (8 * i) % 2 ^ 8) ∧
    le s.tag = State.tagValue s

/-- R132: `FINAL` is a pure projection: repeated, its response taken, it gives the same tag and the same state, and an
`UPDATE` after it goes on as if it had not been issued. -/
def Obligations.FinalIsAProjection : Prop :=
  ∀ s t : State, exec .final s = .next t →
    SameContext s t ∧ t.out.isSome = true ∧ exec .final { t with out := none } = .next t ∧
    (∀ len ≤ s.din.length, exec (.update len) { t with out := none } = exec (.update len) s)

/-- R134: after `INIT`, and after any number of empty `UPDATE`s, `H` and `BUFLEN` are 0 and the tag is `S`, the key bytes
`k[16..32)`. -/
def Obligations.EmptyMessageTagIsTheMask : Prop :=
  ∀ (s : State) (n : Nat), ∃ s0 t u : State,
    issue (.init 256) s = some s0 ∧ feedAll s0 (List.replicate n []) = some t ∧ issue .final t = some u ∧
    t.regH.val = 0 ∧ t.bufLen = 0#4 ∧ t.regS = s.key.extractLsb' 128 128 ∧
    u.out = some ⟨0x00#8, t.regS⟩ ∧ t.tag = tole 16 t.regS.toNat ∧ t.tag = (keyBytes s.key).drop 16

/-- R165: `FINAL` and `VERIFY` without a context end with `NO_CONTEXT` and change nothing. -/
def Obligations.TagCommandsNeedAContext : Prop :=
  ∀ s : State, s.valid = false →
    exec .final s = .next { s with cmd := none, out := some ⟨0x02#8, 0#128⟩ } ∧
    exec .verify s = .next { s with cmd := none, out := some ⟨0x02#8, 0#128⟩ }

/-! ### VERIFY -/

/-- R140, R147: `VERIFY` with a context answers `OK`, with `MATCH = 1` exactly when `TAGIN` is the tag of the registers, and
does not output the tag; it writes no register. -/
def Obligations.VerifyReportsEquality : Prop :=
  ∀ s : State, s.valid = true →
    exec .verify s = .next { s with
      cmd := none
      out := some ⟨if s.tagIn.toNat = State.tagValue s then 0x10#8 else 0x00#8, 0#128⟩ }

/-- R141: `VERIFY` of what `FINAL` returned in the state matches, and `VERIFY` of any other 16 bytes does not. -/
def Obligations.VerifyAcceptsExactlyTheFinalTag : Prop :=
  ∀ (s t : State) (r : Response), s.valid = true → exec .final s = .next t → t.out = some r →
    ∀ cand : U128, ∃ (u : State) (v : Response), exec .verify { s with tagIn := cand } = .next u ∧
      u.out = some v ∧ v.rsp.toNat % 2 ^ 4 = 0 ∧ (v.rsp.getLsbD 4 = true ↔ cand = r.tagOut)

/-- R143: the comparison examines 16 byte pairs in every state, with every candidate. -/
def Obligations.ComparisonCostIsSixteen : Prop :=
  ∀ s : State, s.comparison.cost = 16

/-- R142: every one of the 128 bit pairs takes part: a bit of the difference accumulator is set exactly when some byte
pair differs in it. -/
def Obligations.DifferenceIsTheOrOfAllBytes : Prop :=
  ∀ (s : State) (j : Nat), s.comparison.diff.getLsbD j = true ↔
    ∃ i < 16, ((s.tag.getD i 0) ^^^ ((tagInBytes s.tagIn).getD i 0)).getLsbD j = true

/-! ### Frames -/

/-- R27: `FINAL` and `VERIFY` write no register and take nothing: only the command and the response change. -/
def Obligations.FinalAndVerifyWriteNoRegister : Prop :=
  ∀ s t : State, exec .final s = .next t ∨ exec .verify s = .next t →
    SameContext s t ∧ SameSurroundings s t

/-- R110, R116, R117: `UPDATE` leaves `VALID`, `R` and `S`, what stands on `KEY` and `TAGIN`, and the host as they were; of `DIN` it
removes its `LEN` oldest bytes, or nothing while it waits; without a context it leaves `H`, `BUF` and `BUFLEN` too. That
`DIN` loses nothing while the command waits (R45, R191), its bytes being taken all at once when they are there, is the
model's choice (notes/assumptions/8.md). -/
def Obligations.UpdateFrame : Prop :=
  ∀ (s t : State) (len : Nat), exec (.update len) s = .next t →
    t.valid = s.valid ∧ t.regR = s.regR ∧ t.regS = s.regS ∧
    (s.valid = false → SameContext s t) ∧
    t.key = s.key ∧ t.tagIn = s.tagIn ∧ t.host = s.host ∧ t.received = s.received ∧ t.resets = s.resets ∧
    t.din = if s.din.length < len then s.din else s.din.drop len

/-- R69, R107: `INIT` takes nothing from `DIN` and leaves all but the registers, the command and the response as it was;
what the registers become does not depend on what they were. -/
def Obligations.InitFrame : Prop :=
  (∀ (s t : State) (klen : Nat), exec (.init klen) s = .next t → SameSurroundings s t) ∧
  (∀ s s' t t' : State, s.key = s'.key → exec (.init 256) s = .next t → exec (.init 256) s' = .next t' →
    SameContext t t')

/-! ### Arithmetic -/

/-- R82. -/
def Obligations.FieldAdditionLaws : Prop :=
  (∀ a b : FieldElem, (feAdd a b).val = (a.val + b.val) % (2 ^ 130 - 5)) ∧
  (∀ a b : FieldElem, feAdd a b = feAdd b a) ∧
  (∀ a b c : FieldElem, feAdd (feAdd a b) c = feAdd a (feAdd b c)) ∧
  (∀ a : FieldElem, feAdd a feZero = a) ∧
  (∀ a b : FieldElem, (feAdd a b).val = a.val + b.val ∨ (feAdd a b).val + (2 ^ 130 - 5) = a.val + b.val)

/-- R83. -/
def Obligations.FieldMultiplicationLaws : Prop :=
  (∀ a b : FieldElem, (feMul a b).val = a.val * b.val % (2 ^ 130 - 5)) ∧
  (∀ a b : FieldElem, feMul a b = feMul b a) ∧
  (∀ a b c : FieldElem, feMul (feMul a b) c = feMul a (feMul b c)) ∧
  (∀ a b c : FieldElem, feMul a (feAdd b c) = feAdd (feMul a b) (feMul a c)) ∧
  (∀ a : FieldElem, feMul a (toField 1) = a) ∧ (∀ a : FieldElem, feMul a feZero = feZero) ∧
  feCanon (2 ^ 130) = toField 5

/-- R84: full reduction gives the canonical representative, below `p`, and is the identity on what the field operations
return. -/
def Obligations.FullReduction : Prop :=
  (∀ x : Nat, (feCanon x).val = x % (2 ^ 130 - 5) ∧ (feCanon x).val < 2 ^ 130 - 5) ∧
  (∀ a b : FieldElem, feCanon (feAdd a b).val = feAdd a b ∧ feCanon (feMul a b).val = feMul a b)

/-- R88, R89: truncation and the mask addition. -/
def Obligations.TruncationAndMaskAddition : Prop :=
  (∀ x : FieldElem, (trunc128 x).toNat = x.val % 2 ^ 128) ∧
  (∀ a b : U128, (u128Add a b).toNat = (a.toNat + b.toNat) % 2 ^ 128)

/-- R86: `le` is the sum, bounded by the string's length; trailing zero bytes do not change it. -/
def Obligations.LittleEndianIsTheSum : Prop :=
  le [] = 0 ∧
  ∀ b : List Byte,
    le b = ((List.range b.length).map fun i => (b.getD i 0).toNat * 2 ^ (8 * i)).sum ∧
    le b < 2 ^ (8 * b.length) ∧ le (b ++ [0]) = le b

/-- R87: the bytes of `tole_n`, and that it and `le` are inverse. -/
def Obligations.SerializationBytes : Prop :=
  (∀ n v : Nat, (tole n v).length = n ∧
    (∀ i < n, ((tole n v).getD i 0).toNat = v / 2 ^ (8 * i) % 256) ∧
    (v < 2 ^ (8 * n) → le (tole n v) = v)) ∧
  (∀ b : List Byte, tole b.length (le b) = b)

/-- R41, R42: byte `i` of the key and of the candidate is on bits `8i+7 : 8i` of its bus, and the two halves of `KEY` are
`le` of the two halves of the key. -/
def Obligations.BusesCarryLittleEndianBytes : Prop :=
  ∀ (key : KeyBus) (tagIn : U128),
    (∀ i < 32, (keyBytes key).getD i 0 = key.extractLsb' (8 * i) 8) ∧
    (∀ i < 16, (tagInBytes tagIn).getD i 0 = tagIn.extractLsb' (8 * i) 8) ∧
    le ((keyBytes key).take 16) = (keyRHalf key).toNat ∧ le ((keyBytes key).drop 16) = (keySHalf key).toNat

/-- R90: the bounds that keep every operation exact. -/
def Obligations.ArithmeticBounds : Prop :=
  ∀ (s : State) (c : Nat), Inv s → s.valid = true → c < 2 ^ 129 →
    s.regR.toNat < 2 ^ 124 ∧ s.regH.val + c < 2 * (2 ^ 130 - 5) ∧
    (feAdd s.regH (toField c)).val * s.regR.toNat < 2 ^ 254 ∧
    ∀ x : FieldElem, (trunc128 x).toNat + s.regS.toNat < 2 ^ 129

/-! ### The whole machine -/

/-- R32, R186: after reset there is no context, no command and no response. The values of the other registers are the
model's choice (notes/assumptions/1.md); this says nothing of them. -/
def Obligations.ResetStateIsIdle : Prop :=
  State.reset.valid = false ∧ State.reset.cmd = none ∧ State.reset.out = none ∧ step State.reset = .next State.reset

/-- The invariant holds after reset. -/
def Obligations.InvariantAfterReset : Prop := Inv State.reset

/-- R22, R25, R190: from every state that meets the invariant, a step leads to one that meets it. -/
def Obligations.EveryStepKeepsTheInvariant : Prop :=
  ∀ s t : State, Inv s → step s = .next t → Inv t

/-- R25, R26, R114: from every state whose context, if it has one, is that of some key and message, a step leads to such a
state. -/
def Obligations.ContextIsAlwaysOfSomeMessage : Prop :=
  ∀ s t : State, HoldsSomeContext s → step s = .next t → HoldsSomeContext t

/-- R150, R114: the four commands on a state that holds the context of a key and a message. `INIT` begins the empty message
of the key on `KEY`, `UPDATE` appends its bytes, `FINAL` answers the one-shot tag of the key and message, and `VERIFY` says
whether `TAGIN` is it. -/
def Obligations.StreamingRefinesOneShot : Prop :=
  (∀ s : State, ∃ t, exec (.init 256) s = .next t ∧ Represents t s.key []) ∧
  (∀ (s : State) (key : KeyBus) (msg : List Byte), Represents s key msg →
    (∀ len ≤ s.din.length, ∃ t, exec (.update len) s = .next t ∧ Represents t key (msg ++ s.din.take len)) ∧
    (∃ t, exec .final s = .next t ∧ Represents t key msg ∧
      t.out = some ⟨0x00#8, BitVec.ofNat 128 (macValue key msg)⟩) ∧
    (∃ t, exec .verify s = .next t ∧ Represents t key msg ∧
      t.out = some ⟨if s.tagIn.toNat = macValue key msg then 0x10#8 else 0x00#8, 0#128⟩))

/-- R72, R150: a host that runs `MAC key, msg` on an idle core gets the one-shot tag, after one `OK` for `INIT` and one
for each chunk, whatever the registers held before. The model's choices here, which no rule states: the host as a list of
actions (notes/assumptions/5.md), when each agent moves (6.md), how the message is cut into chunks (19.md), and what the
sequence drives where the spec leaves it open (22.md). -/
def Obligations.MacProgramAnswersTheTag : Prop :=
  ∀ (s : State) (key : KeyBus) (msg : List Byte),
    s.cmd = none → s.out = none → s.din = [] → s.host = macActions key msg →
    ∃ (k : Nat) (t : State), runSteps k s = some t ∧
      t.host = [] ∧ t.cmd = none ∧ t.out = none ∧ Represents t key msg ∧
      t.received = s.received ++ List.replicate (1 + (macChunks msg).length) ⟨0x00#8, 0#128⟩ ++
        [⟨0x00#8, BitVec.ofNat 128 (macValue key msg)⟩]

/-- R150, R151, R164: the one-shot form on an idle core, with any declared key length a word carries. Two steps perform its
`INIT`, which answers `INVALID_KEY_SIZE` exactly when the length is not 256, and a third takes the response; then the
one-shot form is over if it failed, with no register changed, nothing supplied and no `UPDATE` or `FINAL` issued, and goes on
with the message if it did not. The model's choices here, which no rule states: that a take leaves out actions on an error
(notes/assumptions/5.md), when each agent moves (6.md), that `KEY` and `TAGIN` keep what the `INIT` brought (9.md), how the
message is cut into chunks (19.md), and that `TAGIN` carries 0 and the bytes come before their word (22.md). -/
def Obligations.OneShotFailsExactlyWithItsInit : Prop :=
  ∀ (s : State) (klen : Nat) (key : KeyBus) (msg : List Byte) (rest : List HostAction), klen < 2 ^ 16 →
    s.cmd = none → s.out = none → s.host = oneShotActions klen key msg ++ rest →
    ∃ (a b : State) (r : Response), runSteps 2 s = some a ∧ a.out = some r ∧ runSteps 3 s = some b ∧
      (r.rsp.toNat % 2 ^ 4 = 1 ↔ klen ≠ 256) ∧
      (klen ≠ 256 → b = { s with
        key := key
        tagIn := 0#128
        host := rest
        received := s.received ++ [⟨0x01#8, 0#128⟩] }) ∧
      (klen = 256 → Represents b key [] ∧ b.host = messageActions msg ++ rest ∧ b.cmd = none ∧ b.out = none ∧
        b.din = s.din ∧ b.received = s.received ++ [⟨0x00#8, 0#128⟩])

/-- R21, R32, R34, R165: what the registers hold while `VALID = 0` is never read, and two states equal but for that stay
so: no sequence of commands tells them apart, and no claim rests on what reset left in them. -/
def Obligations.UnspecifiedRegistersAreNeverRead : Prop :=
  ∀ s s' t : State, SameView s s' → step s = .next t → ∃ t', step s' = .next t' ∧ SameView t t'

end
end

