-- ==== Sys2Proof/Laws/Field.lean ====
section
/-!
SUPPORT. What the arithmetic operations give, as plain integers.
-/

namespace Sys2Proof.Machine

theorem fieldPrime_eq : fieldPrime = 2 ^ 130 - 5 := rfl

@[simp] theorem feCanon_val (x : Nat) : (feCanon x).val = x % (2 ^ 130 - 5) := rfl

@[simp] theorem feAdd_val (a b : FieldElem) : (feAdd a b).val = (a.val + b.val) % (2 ^ 130 - 5) := rfl

@[simp] theorem feMul_val (a b : FieldElem) : (feMul a b).val = a.val * b.val % (2 ^ 130 - 5) := rfl

@[simp] theorem toField_val (c : Nat) : (toField c).val = c % (2 ^ 130 - 5) := rfl

@[simp] theorem feZero_val : feZero.val = 0 := rfl

theorem fieldElem_lt (x : FieldElem) : x.val < 2 ^ 130 - 5 := x.isLt

/-- A field element is its own full reduction. -/
@[simp] theorem feCanon_fieldElem (x : FieldElem) : feCanon x.val = x :=
  Fin.ext (Nat.mod_eq_of_lt x.isLt)

/-- An integer below `p` keeps its value as a field element (R85). -/
theorem toField_val_of_lt {c : Nat} (h : c < 2 ^ 130 - 5) : (toField c).val = c := Nat.mod_eq_of_lt h

@[simp] theorem trunc128_toNat (x : FieldElem) : (trunc128 x).toNat = x.val % 2 ^ 128 := BitVec.toNat_ofNat _ _

@[simp] theorem u128Add_toNat (a b : U128) : (u128Add a b).toNat = (a.toNat + b.toNat) % 2 ^ 128 :=
  BitVec.toNat_add _ _

/-- The fold of one block on plain integers (R112). -/
theorem foldBlock_val (r : U128) (h : FieldElem) (c : Nat) :
    (foldBlock r h c).val = (h.val + c) % (2 ^ 130 - 5) * r.toNat % (2 ^ 130 - 5) := by
  simp only [foldBlock, feMul_val, feAdd_val, toField_val]
  rw [Nat.add_mod_mod, Nat.mul_mod_mod]

end Sys2Proof.Machine
end

