-- ==== Sys2Proof/Laws/Accumulator.lean ====
section
/-!
SUPPORT. The loop of `UPDATE`: it folds block by block, it can be cut anywhere, and it does not look beyond its blocks.
-/

namespace Sys2Proof.Machine

@[simp] theorem absorb_zero (r : U128) (h : FieldElem) (w : List Byte) : absorb r 0 h w = (h, w) := rfl

@[simp] theorem absorb_succ (r : U128) (n : Nat) (h : FieldElem) (w : List Byte) :
    absorb r (n + 1) h w = absorb r n (foldBlock r h (blockValue (w.take 16))) (w.drop 16) := rfl

/-- The bytes the loop leaves. -/
theorem absorb_snd (r : U128) (n : Nat) (h : FieldElem) (w : List Byte) :
    (absorb r n h w).2 = w.drop (16 * n) := by
  induction n generalizing h w with
  | zero => simp
  | succ n ih => rw [absorb_succ, ih, List.drop_drop, Nat.mul_succ, Nat.add_comm]

/-- `m + n` blocks are `m` blocks and then `n` blocks. -/
theorem absorb_add (r : U128) (m n : Nat) (h : FieldElem) (w : List Byte) :
    absorb r (m + n) h w = absorb r n (absorb r m h w).1 (absorb r m h w).2 := by
  induction m generalizing h w with
  | zero => simp
  | succ m ih => rw [Nat.succ_add, absorb_succ, ih, absorb_succ]

/-- Bytes beyond the blocks folded stay where they are. -/
theorem absorb_append (r : U128) (n : Nat) (h : FieldElem) (w x : List Byte) (hn : 16 * n ≤ w.length) :
    absorb r n h (w ++ x) = ((absorb r n h w).1, (absorb r n h w).2 ++ x) := by
  induction n generalizing h w with
  | zero => simp
  | succ n ih =>
    rw [absorb_succ, absorb_succ, List.take_append_of_le_length (by omega), List.drop_append_of_le_length (by omega),
      ih _ _ (by simp; omega)]

/-- `absorbAll` leaves the bytes after the last full block (R113). -/
theorem absorbAll_snd (r : U128) (h : FieldElem) (w : List Byte) :
    (absorbAll r h w).2 = w.drop (16 * (w.length / 16)) := absorb_snd _ _ _ _

/-- Fewer than 16 bytes are left (R113). -/
theorem absorbAll_snd_length (r : U128) (h : FieldElem) (w : List Byte) :
    (absorbAll r h w).2.length = w.length % 16 := by
  rw [absorbAll_snd, List.length_drop]
  omega

/-- Full blocks of `w` and then of what is left with `x` are the full blocks of `w ++ x`. -/
theorem absorbAll_append (r : U128) (h : FieldElem) (w x : List Byte) :
    absorbAll r h (w ++ x) = absorbAll r (absorbAll r h w).1 ((absorbAll r h w).2 ++ x) := by
  have hlen : (w ++ x).length / 16 = w.length / 16 + ((absorbAll r h w).2 ++ x).length / 16 := by
    rw [List.length_append, List.length_append, absorbAll_snd_length]
    omega
  unfold absorbAll Config.blockBytes at *
  rw [hlen, absorb_add, absorb_append _ _ _ _ _ (by omega)]

end Sys2Proof.Machine
end

