-- ==== Sys2Proof/Laws/Bytes.lean ====
section
/-!
SUPPORT. Little-endian conversion: `le` over an append, the length, bytes, parts and value of `tole`.
-/

namespace Sys2Proof.Machine

@[simp] theorem le_nil : le [] = 0 := rfl

@[simp] theorem le_cons (b : Byte) (bs : List Byte) : le (b :: bs) = b.toNat + 2 ^ 8 * le bs := rfl

theorem pow_succ_byte (n : Nat) : 2 ^ (8 * (n + 1)) = 2 ^ 8 * 2 ^ (8 * n) := by
  rw [Nat.mul_succ, Nat.add_comm, Nat.pow_add]

/-- The second string stands above the first. -/
theorem le_append (a b : List Byte) : le (a ++ b) = le a + 2 ^ (8 * a.length) * le b := by
  induction a with
  | nil => simp
  | cons x xs ih =>
    rw [List.cons_append, le_cons, le_cons, ih, List.length_cons, pow_succ_byte]
    ring

/-- `n` bytes hold an integer below `2^(8n)`. -/
theorem le_lt_pow (b : List Byte) : le b < 2 ^ (8 * b.length) := by
  induction b with
  | nil => simp
  | cons x xs ih =>
    rw [le_cons, List.length_cons, pow_succ_byte]
    have := x.isLt
    omega

@[simp] theorem tole_zero (v : Nat) : tole 0 v = [] := rfl

@[simp] theorem tole_succ (n v : Nat) : tole (n + 1) v = BitVec.ofNat 8 v :: tole n (v / 2 ^ 8) := rfl

@[simp] theorem tole_length (n v : Nat) : (tole n v).length = n := by
  induction n generalizing v with
  | zero => rfl
  | succ n ih => simp [ih]

/-- Byte `i` of a serialization. -/
theorem tole_getD (n v i : Nat) (h : i < n) : (tole n v).getD i 0 = BitVec.ofNat 8 (v / 2 ^ (8 * i)) := by
  induction n generalizing v i with
  | zero => omega
  | succ n ih =>
    cases i with
    | zero => simp
    | succ i =>
      rw [tole_succ, List.getD_cons_succ, ih _ _ (by omega), Nat.div_div_eq_div_mul, pow_succ_byte]

/-- A serialization of `n` bytes keeps the integer modulo `2^(8n)`. -/
theorem le_tole_mod (n v : Nat) : le (tole n v) = v % 2 ^ (8 * n) := by
  induction n generalizing v with
  | zero => simp [Nat.mod_one]
  | succ n ih =>
    rw [tole_succ, le_cons, ih, BitVec.toNat_ofNat, pow_succ_byte, Nat.mod_mul]

/-- The first `m` bytes of a longer serialization. -/
theorem tole_take (m n v : Nat) : (tole (m + n) v).take m = tole m v := by
  induction m generalizing v with
  | zero => simp
  | succ m ih => rw [Nat.succ_add, tole_succ, List.take_succ_cons, ih, tole_succ]

/-- The bytes after the first `m` of a longer serialization. -/
theorem tole_drop (m n v : Nat) : (tole (m + n) v).drop m = tole n (v / 2 ^ (8 * m)) := by
  induction m generalizing v with
  | zero => simp
  | succ m ih =>
    rw [Nat.succ_add, tole_succ, List.drop_succ_cons, ih, Nat.div_div_eq_div_mul, pow_succ_byte]

/-- The first 16 key bytes are those of the low half of the bus (R42). -/
theorem keyBytes_take (key : KeyBus) : (keyBytes key).take 16 = tole 16 key.toNat := tole_take 16 16 _

/-- The last 16 key bytes are those of the high half of the bus (R42). -/
theorem keyBytes_drop (key : KeyBus) : (keyBytes key).drop 16 = tole 16 (key.toNat / 2 ^ 128) := tole_drop 16 16 _

end Sys2Proof.Machine
end

