-- ==== Sys2Proof/Laws/Decode.lean ====
section
/-!
SUPPORT. The fields of a command word and the decoder, on plain integers.
-/

namespace Sys2Proof

theorem opField_toNat (w : Word) : (opField w).toNat = w.toNat / 2 ^ 28 := by
  rw [opField, BitVec.extractLsb'_toNat, Nat.shiftRight_eq_div_pow]
  have := w.isLt
  omega

theorem rsvField_toNat (w : Word) : (rsvField w).toNat = w.toNat / 2 ^ 16 % 2 ^ 12 := by
  rw [rsvField, BitVec.extractLsb'_toNat, Nat.shiftRight_eq_div_pow]

theorem argField_toNat (w : Word) : (argField w).toNat = w.toNat % 2 ^ 16 := by
  rw [argField, BitVec.extractLsb'_toNat, Nat.shiftRight_zero]

theorem opField_eq_iff (w : Word) (k : Nat) (hk : k < 16) : opField w = BitVec.ofNat 4 k ↔ w.toNat / 2 ^ 28 = k := by
  rw [← opField_toNat, BitVec.toNat_eq, BitVec.toNat_ofNat, Nat.mod_eq_of_lt hk]

theorem rsvField_eq_zero_iff (w : Word) : rsvField w = 0#12 ↔ w.toNat / 2 ^ 16 % 2 ^ 12 = 0 := by
  rw [← rsvField_toNat, BitVec.toNat_eq, BitVec.toNat_ofNat, Nat.zero_mod]

theorem argField_eq_zero_iff (w : Word) : argField w = 0#16 ↔ w.toNat % 2 ^ 16 = 0 := by
  rw [← argField_toNat, BitVec.toNat_eq, BitVec.toNat_ofNat, Nat.zero_mod]

/-- The decoder of R70 on plain integers. -/
theorem decode_eq_nat (w : Word) : decode w =
    if w.toNat / 2 ^ 16 % 2 ^ 12 ≠ 0 then .illegal .reservedBits
    else if w.toNat / 2 ^ 28 = 1 then .legal (.init (w.toNat % 2 ^ 16))
    else if w.toNat / 2 ^ 28 = 2 then .legal (.update (w.toNat % 2 ^ 16))
    else if w.toNat / 2 ^ 28 = 3 then
      if w.toNat % 2 ^ 16 = 0 then .legal .final else .illegal .nonzeroArg
    else if w.toNat / 2 ^ 28 = 4 then
      if w.toNat % 2 ^ 16 = 0 then .legal .verify else .illegal .nonzeroArg
    else .illegal .reservedOp := by
  unfold decode
  simp only [ne_eq, opField_eq_iff w 1 (by omega), opField_eq_iff w 2 (by omega), opField_eq_iff w 3 (by omega),
    opField_eq_iff w 4 (by omega), rsvField_eq_zero_iff, argField_eq_zero_iff, argField_toNat]

/-- The word of the encoder as an integer (R60). -/
theorem encodeFields_toNat (op : BitVec 4) (arg : BitVec 16) :
    (encodeFields op arg).toNat = op.toNat * 2 ^ 28 + arg.toNat := by
  unfold encodeFields
  rw [BitVec.toNat_append, BitVec.toNat_append]
  simp only [BitVec.toNat_ofNat, Nat.zero_mod, Nat.zero_shiftLeft, Nat.zero_or]
  rw [← Nat.shiftLeft_add_eq_or_of_lt (by have := arg.isLt; omega), Nat.shiftLeft_eq]

end Sys2Proof
end

