-- ==== Sys2Proof/Laws/State.lean ====
section
/-!
SUPPORT. What each named operation on the state does to each field, one lemma per field, so that no proof unfolds a
record update.
-/

namespace Sys2Proof.Machine

variable (s : State)

/-! ### `State.loadContext` -/

@[simp] theorem State.loadContext_valid (r mask : U128) : (s.loadContext r mask).valid = true := rfl
@[simp] theorem State.loadContext_regR (r mask : U128) : (s.loadContext r mask).regR = r := rfl
@[simp] theorem State.loadContext_regS (r mask : U128) : (s.loadContext r mask).regS = mask := rfl
@[simp] theorem State.loadContext_regH (r mask : U128) : (s.loadContext r mask).regH = feZero := rfl
@[simp] theorem State.loadContext_buf (r mask : U128) : (s.loadContext r mask).buf = [] := rfl
@[simp] theorem State.loadContext_bufLen (r mask : U128) : (s.loadContext r mask).bufLen = 0#4 := rfl
@[simp] theorem State.loadContext_cmd (r mask : U128) : (s.loadContext r mask).cmd = s.cmd := rfl
@[simp] theorem State.loadContext_key (r mask : U128) : (s.loadContext r mask).key = s.key := rfl
@[simp] theorem State.loadContext_tagIn (r mask : U128) : (s.loadContext r mask).tagIn = s.tagIn := rfl
@[simp] theorem State.loadContext_din (r mask : U128) : (s.loadContext r mask).din = s.din := rfl
@[simp] theorem State.loadContext_out (r mask : U128) : (s.loadContext r mask).out = s.out := rfl
@[simp] theorem State.loadContext_host (r mask : U128) : (s.loadContext r mask).host = s.host := rfl
@[simp] theorem State.loadContext_received (r mask : U128) : (s.loadContext r mask).received = s.received := rfl
@[simp] theorem State.loadContext_resets (r mask : U128) : (s.loadContext r mask).resets = s.resets := rfl

/-! ### `State.writeAccumulator` -/

@[simp] theorem State.writeAccumulator_valid (h : FieldElem) (w : List Byte) :
    (s.writeAccumulator h w).valid = s.valid := rfl
@[simp] theorem State.writeAccumulator_regR (h : FieldElem) (w : List Byte) :
    (s.writeAccumulator h w).regR = s.regR := rfl
@[simp] theorem State.writeAccumulator_regS (h : FieldElem) (w : List Byte) :
    (s.writeAccumulator h w).regS = s.regS := rfl
@[simp] theorem State.writeAccumulator_regH (h : FieldElem) (w : List Byte) : (s.writeAccumulator h w).regH = h := rfl
@[simp] theorem State.writeAccumulator_buf (h : FieldElem) (w : List Byte) : (s.writeAccumulator h w).buf = w := rfl
@[simp] theorem State.writeAccumulator_bufLen (h : FieldElem) (w : List Byte) :
    (s.writeAccumulator h w).bufLen = BitVec.ofNat 4 w.length := rfl
@[simp] theorem State.writeAccumulator_cmd (h : FieldElem) (w : List Byte) :
    (s.writeAccumulator h w).cmd = s.cmd := rfl
@[simp] theorem State.writeAccumulator_key (h : FieldElem) (w : List Byte) :
    (s.writeAccumulator h w).key = s.key := rfl
@[simp] theorem State.writeAccumulator_tagIn (h : FieldElem) (w : List Byte) :
    (s.writeAccumulator h w).tagIn = s.tagIn := rfl
@[simp] theorem State.writeAccumulator_din (h : FieldElem) (w : List Byte) :
    (s.writeAccumulator h w).din = s.din := rfl
@[simp] theorem State.writeAccumulator_out (h : FieldElem) (w : List Byte) :
    (s.writeAccumulator h w).out = s.out := rfl
@[simp] theorem State.writeAccumulator_host (h : FieldElem) (w : List Byte) :
    (s.writeAccumulator h w).host = s.host := rfl
@[simp] theorem State.writeAccumulator_received (h : FieldElem) (w : List Byte) :
    (s.writeAccumulator h w).received = s.received := rfl
@[simp] theorem State.writeAccumulator_resets (h : FieldElem) (w : List Byte) :
    (s.writeAccumulator h w).resets = s.resets := rfl

/-! ### `State.dinDrop` -/

@[simp] theorem State.dinDrop_valid (n : Nat) : (s.dinDrop n).valid = s.valid := rfl
@[simp] theorem State.dinDrop_regR (n : Nat) : (s.dinDrop n).regR = s.regR := rfl
@[simp] theorem State.dinDrop_regS (n : Nat) : (s.dinDrop n).regS = s.regS := rfl
@[simp] theorem State.dinDrop_regH (n : Nat) : (s.dinDrop n).regH = s.regH := rfl
@[simp] theorem State.dinDrop_buf (n : Nat) : (s.dinDrop n).buf = s.buf := rfl
@[simp] theorem State.dinDrop_bufLen (n : Nat) : (s.dinDrop n).bufLen = s.bufLen := rfl
@[simp] theorem State.dinDrop_cmd (n : Nat) : (s.dinDrop n).cmd = s.cmd := rfl
@[simp] theorem State.dinDrop_key (n : Nat) : (s.dinDrop n).key = s.key := rfl
@[simp] theorem State.dinDrop_tagIn (n : Nat) : (s.dinDrop n).tagIn = s.tagIn := rfl
@[simp] theorem State.dinDrop_din (n : Nat) : (s.dinDrop n).din = s.din.drop n := rfl
@[simp] theorem State.dinDrop_out (n : Nat) : (s.dinDrop n).out = s.out := rfl
@[simp] theorem State.dinDrop_host (n : Nat) : (s.dinDrop n).host = s.host := rfl
@[simp] theorem State.dinDrop_received (n : Nat) : (s.dinDrop n).received = s.received := rfl
@[simp] theorem State.dinDrop_resets (n : Nat) : (s.dinDrop n).resets = s.resets := rfl

/-! ### `State.respond` -/

@[simp] theorem State.respond_valid (r : Response) : (s.respond r).valid = s.valid := rfl
@[simp] theorem State.respond_regR (r : Response) : (s.respond r).regR = s.regR := rfl
@[simp] theorem State.respond_regS (r : Response) : (s.respond r).regS = s.regS := rfl
@[simp] theorem State.respond_regH (r : Response) : (s.respond r).regH = s.regH := rfl
@[simp] theorem State.respond_buf (r : Response) : (s.respond r).buf = s.buf := rfl
@[simp] theorem State.respond_bufLen (r : Response) : (s.respond r).bufLen = s.bufLen := rfl
@[simp] theorem State.respond_cmd (r : Response) : (s.respond r).cmd = none := rfl
@[simp] theorem State.respond_key (r : Response) : (s.respond r).key = s.key := rfl
@[simp] theorem State.respond_tagIn (r : Response) : (s.respond r).tagIn = s.tagIn := rfl
@[simp] theorem State.respond_din (r : Response) : (s.respond r).din = s.din := rfl
@[simp] theorem State.respond_out (r : Response) : (s.respond r).out = some r := rfl
@[simp] theorem State.respond_host (r : Response) : (s.respond r).host = s.host := rfl
@[simp] theorem State.respond_received (r : Response) : (s.respond r).received = s.received := rfl
@[simp] theorem State.respond_resets (r : Response) : (s.respond r).resets = s.resets := rfl

/-! ### `State.raise` -/

@[simp] theorem State.raise_valid (st : Status) : (s.raise st).valid = s.valid := rfl
@[simp] theorem State.raise_regR (st : Status) : (s.raise st).regR = s.regR := rfl
@[simp] theorem State.raise_regS (st : Status) : (s.raise st).regS = s.regS := rfl
@[simp] theorem State.raise_regH (st : Status) : (s.raise st).regH = s.regH := rfl
@[simp] theorem State.raise_buf (st : Status) : (s.raise st).buf = s.buf := rfl
@[simp] theorem State.raise_bufLen (st : Status) : (s.raise st).bufLen = s.bufLen := rfl
@[simp] theorem State.raise_cmd (st : Status) : (s.raise st).cmd = none := rfl
@[simp] theorem State.raise_key (st : Status) : (s.raise st).key = s.key := rfl
@[simp] theorem State.raise_tagIn (st : Status) : (s.raise st).tagIn = s.tagIn := rfl
@[simp] theorem State.raise_din (st : Status) : (s.raise st).din = s.din := rfl
@[simp] theorem State.raise_out (st : Status) : (s.raise st).out = some (errorResponse st) := rfl
@[simp] theorem State.raise_host (st : Status) : (s.raise st).host = s.host := rfl
@[simp] theorem State.raise_received (st : Status) : (s.raise st).received = s.received := rfl
@[simp] theorem State.raise_resets (st : Status) : (s.raise st).resets = s.resets := rfl

/-! ### `State.assertReset` -/

@[simp] theorem State.assertReset_valid : (s.assertReset).valid = false := rfl
@[simp] theorem State.assertReset_regR : (s.assertReset).regR = Config.resetR s.resets s.registers s.ports := rfl
@[simp] theorem State.assertReset_regS : (s.assertReset).regS = Config.resetS s.resets s.registers s.ports := rfl
@[simp] theorem State.assertReset_regH :
    (s.assertReset).regH = feCanon (Config.resetH s.resets s.registers s.ports) := rfl
@[simp] theorem State.assertReset_buf :
    (s.assertReset).buf = (List.range (Config.resetBufLen s.resets s.registers s.ports).toNat).map
      (Config.resetBuf s.resets s.registers s.ports) := rfl
@[simp] theorem State.assertReset_bufLen :
    (s.assertReset).bufLen = Config.resetBufLen s.resets s.registers s.ports := rfl
@[simp] theorem State.assertReset_cmd : (s.assertReset).cmd = none := rfl
@[simp] theorem State.assertReset_key : (s.assertReset).key = s.key := rfl
@[simp] theorem State.assertReset_tagIn : (s.assertReset).tagIn = s.tagIn := rfl
@[simp] theorem State.assertReset_din : (s.assertReset).din = s.din.drop s.resetLoss := rfl
@[simp] theorem State.assertReset_out : (s.assertReset).out = none := rfl
@[simp] theorem State.assertReset_host : (s.assertReset).host = s.host := rfl
@[simp] theorem State.assertReset_received : (s.assertReset).received = s.received := rfl
@[simp] theorem State.assertReset_resets : (s.assertReset).resets = s.resets + 1 := rfl

/-! ### `State.hostRest` -/

@[simp] theorem State.hostRest_valid (rest : List HostAction) : (s.hostRest rest).valid = s.valid := rfl
@[simp] theorem State.hostRest_regR (rest : List HostAction) : (s.hostRest rest).regR = s.regR := rfl
@[simp] theorem State.hostRest_regS (rest : List HostAction) : (s.hostRest rest).regS = s.regS := rfl
@[simp] theorem State.hostRest_regH (rest : List HostAction) : (s.hostRest rest).regH = s.regH := rfl
@[simp] theorem State.hostRest_buf (rest : List HostAction) : (s.hostRest rest).buf = s.buf := rfl
@[simp] theorem State.hostRest_bufLen (rest : List HostAction) : (s.hostRest rest).bufLen = s.bufLen := rfl
@[simp] theorem State.hostRest_cmd (rest : List HostAction) : (s.hostRest rest).cmd = s.cmd := rfl
@[simp] theorem State.hostRest_key (rest : List HostAction) : (s.hostRest rest).key = s.key := rfl
@[simp] theorem State.hostRest_tagIn (rest : List HostAction) : (s.hostRest rest).tagIn = s.tagIn := rfl
@[simp] theorem State.hostRest_din (rest : List HostAction) : (s.hostRest rest).din = s.din := rfl
@[simp] theorem State.hostRest_out (rest : List HostAction) : (s.hostRest rest).out = s.out := rfl
@[simp] theorem State.hostRest_host (rest : List HostAction) : (s.hostRest rest).host = rest := rfl
@[simp] theorem State.hostRest_received (rest : List HostAction) : (s.hostRest rest).received = s.received := rfl
@[simp] theorem State.hostRest_resets (rest : List HostAction) : (s.hostRest rest).resets = s.resets := rfl

/-! ### `State.presentCommand` -/

@[simp] theorem State.presentCommand_valid (w : Word) (k : KeyBus) (c : U128) :
    (s.presentCommand w k c).valid = s.valid := rfl
@[simp] theorem State.presentCommand_regR (w : Word) (k : KeyBus) (c : U128) :
    (s.presentCommand w k c).regR = s.regR := rfl
@[simp] theorem State.presentCommand_regS (w : Word) (k : KeyBus) (c : U128) :
    (s.presentCommand w k c).regS = s.regS := rfl
@[simp] theorem State.presentCommand_regH (w : Word) (k : KeyBus) (c : U128) :
    (s.presentCommand w k c).regH = s.regH := rfl
@[simp] theorem State.presentCommand_buf (w : Word) (k : KeyBus) (c : U128) :
    (s.presentCommand w k c).buf = s.buf := rfl
@[simp] theorem State.presentCommand_bufLen (w : Word) (k : KeyBus) (c : U128) :
    (s.presentCommand w k c).bufLen = s.bufLen := rfl
@[simp] theorem State.presentCommand_cmd (w : Word) (k : KeyBus) (c : U128) :
    (s.presentCommand w k c).cmd = some w := rfl
@[simp] theorem State.presentCommand_key (w : Word) (k : KeyBus) (c : U128) : (s.presentCommand w k c).key = k := rfl
@[simp] theorem State.presentCommand_tagIn (w : Word) (k : KeyBus) (c : U128) :
    (s.presentCommand w k c).tagIn = c := rfl
@[simp] theorem State.presentCommand_din (w : Word) (k : KeyBus) (c : U128) :
    (s.presentCommand w k c).din = s.din := rfl
@[simp] theorem State.presentCommand_out (w : Word) (k : KeyBus) (c : U128) :
    (s.presentCommand w k c).out = s.out := rfl
@[simp] theorem State.presentCommand_host (w : Word) (k : KeyBus) (c : U128) :
    (s.presentCommand w k c).host = s.host := rfl
@[simp] theorem State.presentCommand_received (w : Word) (k : KeyBus) (c : U128) :
    (s.presentCommand w k c).received = s.received := rfl
@[simp] theorem State.presentCommand_resets (w : Word) (k : KeyBus) (c : U128) :
    (s.presentCommand w k c).resets = s.resets := rfl

/-! ### `State.supplyDin` -/

@[simp] theorem State.supplyDin_valid (bytes : List Byte) : (s.supplyDin bytes).valid = s.valid := rfl
@[simp] theorem State.supplyDin_regR (bytes : List Byte) : (s.supplyDin bytes).regR = s.regR := rfl
@[simp] theorem State.supplyDin_regS (bytes : List Byte) : (s.supplyDin bytes).regS = s.regS := rfl
@[simp] theorem State.supplyDin_regH (bytes : List Byte) : (s.supplyDin bytes).regH = s.regH := rfl
@[simp] theorem State.supplyDin_buf (bytes : List Byte) : (s.supplyDin bytes).buf = s.buf := rfl
@[simp] theorem State.supplyDin_bufLen (bytes : List Byte) : (s.supplyDin bytes).bufLen = s.bufLen := rfl
@[simp] theorem State.supplyDin_cmd (bytes : List Byte) : (s.supplyDin bytes).cmd = s.cmd := rfl
@[simp] theorem State.supplyDin_key (bytes : List Byte) : (s.supplyDin bytes).key = s.key := rfl
@[simp] theorem State.supplyDin_tagIn (bytes : List Byte) : (s.supplyDin bytes).tagIn = s.tagIn := rfl
@[simp] theorem State.supplyDin_din (bytes : List Byte) : (s.supplyDin bytes).din = s.din ++ bytes := rfl
@[simp] theorem State.supplyDin_out (bytes : List Byte) : (s.supplyDin bytes).out = s.out := rfl
@[simp] theorem State.supplyDin_host (bytes : List Byte) : (s.supplyDin bytes).host = s.host := rfl
@[simp] theorem State.supplyDin_received (bytes : List Byte) : (s.supplyDin bytes).received = s.received := rfl
@[simp] theorem State.supplyDin_resets (bytes : List Byte) : (s.supplyDin bytes).resets = s.resets := rfl

/-! ### `State.takeResponse` -/

@[simp] theorem State.takeResponse_valid (r : Response) : (s.takeResponse r).valid = s.valid := rfl
@[simp] theorem State.takeResponse_regR (r : Response) : (s.takeResponse r).regR = s.regR := rfl
@[simp] theorem State.takeResponse_regS (r : Response) : (s.takeResponse r).regS = s.regS := rfl
@[simp] theorem State.takeResponse_regH (r : Response) : (s.takeResponse r).regH = s.regH := rfl
@[simp] theorem State.takeResponse_buf (r : Response) : (s.takeResponse r).buf = s.buf := rfl
@[simp] theorem State.takeResponse_bufLen (r : Response) : (s.takeResponse r).bufLen = s.bufLen := rfl
@[simp] theorem State.takeResponse_cmd (r : Response) : (s.takeResponse r).cmd = s.cmd := rfl
@[simp] theorem State.takeResponse_key (r : Response) : (s.takeResponse r).key = s.key := rfl
@[simp] theorem State.takeResponse_tagIn (r : Response) : (s.takeResponse r).tagIn = s.tagIn := rfl
@[simp] theorem State.takeResponse_din (r : Response) : (s.takeResponse r).din = s.din := rfl
@[simp] theorem State.takeResponse_out (r : Response) : (s.takeResponse r).out = none := rfl
@[simp] theorem State.takeResponse_host (r : Response) : (s.takeResponse r).host = s.host := rfl
@[simp] theorem State.takeResponse_received (r : Response) : (s.takeResponse r).received = s.received ++ [r] := rfl
@[simp] theorem State.takeResponse_resets (r : Response) : (s.takeResponse r).resets = s.resets := rfl

/-! ### `State.withFetchWord` -/

@[simp] theorem State.withFetchWord_valid (nbits w : Nat) : (s.withFetchWord nbits w).valid = s.valid := rfl
@[simp] theorem State.withFetchWord_regR (nbits w : Nat) : (s.withFetchWord nbits w).regR = s.regR := rfl
@[simp] theorem State.withFetchWord_regS (nbits w : Nat) : (s.withFetchWord nbits w).regS = s.regS := rfl
@[simp] theorem State.withFetchWord_regH (nbits w : Nat) : (s.withFetchWord nbits w).regH = s.regH := rfl
@[simp] theorem State.withFetchWord_buf (nbits w : Nat) : (s.withFetchWord nbits w).buf = s.buf := rfl
@[simp] theorem State.withFetchWord_bufLen (nbits w : Nat) : (s.withFetchWord nbits w).bufLen = s.bufLen := rfl
@[simp] theorem State.withFetchWord_cmd (nbits w : Nat) :
    (s.withFetchWord nbits w).cmd = some (tableWord nbits w) := rfl
@[simp] theorem State.withFetchWord_key (nbits w : Nat) : (s.withFetchWord nbits w).key = s.key := rfl
@[simp] theorem State.withFetchWord_tagIn (nbits w : Nat) : (s.withFetchWord nbits w).tagIn = s.tagIn := rfl
@[simp] theorem State.withFetchWord_din (nbits w : Nat) : (s.withFetchWord nbits w).din = s.din := rfl
@[simp] theorem State.withFetchWord_out (nbits w : Nat) : (s.withFetchWord nbits w).out = none := rfl
@[simp] theorem State.withFetchWord_host (nbits w : Nat) : (s.withFetchWord nbits w).host = [] := rfl
@[simp] theorem State.withFetchWord_received (nbits w : Nat) : (s.withFetchWord nbits w).received = s.received := rfl
@[simp] theorem State.withFetchWord_resets (nbits w : Nat) : (s.withFetchWord nbits w).resets = s.resets := rfl

end Sys2Proof.Machine
end

