-- ==== Sys2Proof/Laws/Exec.lean ====
section
/-!
SUPPORT. What each command can do, once: if its meaning answers a next state, then one of the cases named holds; and it
always answers one.
-/

namespace Sys2Proof.Machine

/-- The two ends of `INIT` (R100, R106). -/
theorem execInit_eq (klen : Nat) (s : State) :
    execInit klen s = .next (if klen = 256 then
      (s.loadContext (keyR s.key) (keyS s.key)).respond (okResponse false 0#128) else s.raise .invalidKeySize) := by
  unfold execInit Config.keyBits
  by_cases h : klen = 256 <;> simp [h]

/-- `UPDATE` waits, fails without a context, or folds (R110). -/
theorem execUpdate_eq (len : Nat) (s : State) :
    execUpdate len s = .next (if s.din.length < len then s
      else if s.valid = false then (s.dinDrop len).raise .noContext
      else ((s.dinDrop len).writeAccumulator (absorbAll s.regR s.regH (s.buf ++ s.din.take len)).1
        (absorbAll s.regR s.regH (s.buf ++ s.din.take len)).2).respond (okResponse false 0#128)) := by
  unfold execUpdate State.dinShort State.dinBytes
  simp only [decide_eq_true_eq]
  split
  · rfl
  · split <;> rfl

/-- `FINAL` fails without a context, or answers the tag (R126). -/
theorem execFinal_eq (s : State) :
    execFinal s = .next (if s.valid = false then s.raise .noContext
      else s.respond (okResponse false (u128OfBytes s.tag))) := by
  unfold execFinal
  split <;> rfl

/-- `VERIFY` fails without a context, or answers the verdict (R140). -/
theorem execVerify_eq (s : State) :
    execVerify s = .next (if s.valid = false then s.raise .noContext
      else s.respond (okResponse (s.comparison.diff == 0#8) 0#128)) := by
  unfold execVerify
  split <;> rfl

/-- Every command, in every state, answers a next state: no command faults and none is refused. -/
theorem exec_next (i : Instr) (s : State) : ∃ t, exec i s = .next t := by
  cases i with
  | init klen => exact ⟨_, execInit_eq klen s⟩
  | update len => exact ⟨_, execUpdate_eq len s⟩
  | final => exact ⟨_, execFinal_eq s⟩
  | verify => exact ⟨_, execVerify_eq s⟩

/-- The cases of a command that answers `t`. -/
inductive ExecCase (s t : State) : Instr → Prop where
  | initBadSize (klen : Nat) (h : klen ≠ 256) (ht : t = s.raise .invalidKeySize) : ExecCase s t (.init klen)
  | initLoad (ht : t = (s.loadContext (keyR s.key) (keyS s.key)).respond (okResponse false 0#128)) :
      ExecCase s t (.init 256)
  | updateWait (len : Nat) (h : s.din.length < len) (ht : t = s) : ExecCase s t (.update len)
  | updateNoContext (len : Nat) (h : len ≤ s.din.length) (hv : s.valid = false)
      (ht : t = (s.dinDrop len).raise .noContext) : ExecCase s t (.update len)
  | updateFold (len : Nat) (h : len ≤ s.din.length) (hv : s.valid = true)
      (ht : t = ((s.dinDrop len).writeAccumulator (absorbAll s.regR s.regH (s.buf ++ s.din.take len)).1
        (absorbAll s.regR s.regH (s.buf ++ s.din.take len)).2).respond (okResponse false 0#128)) :
      ExecCase s t (.update len)
  | finalNoContext (hv : s.valid = false) (ht : t = s.raise .noContext) : ExecCase s t .final
  | finalTag (hv : s.valid = true) (ht : t = s.respond (okResponse false (u128OfBytes s.tag))) : ExecCase s t .final
  | verifyNoContext (hv : s.valid = false) (ht : t = s.raise .noContext) : ExecCase s t .verify
  | verifyVerdict (hv : s.valid = true) (ht : t = s.respond (okResponse (s.comparison.diff == 0#8) 0#128)) :
      ExecCase s t .verify

/-- What a command can do. -/
theorem exec_cases {i : Instr} {s t : State} (h : exec i s = .next t) : ExecCase s t i := by
  cases i with
  | init klen =>
    obtain rfl := Host.Outcome.next.inj ((execInit_eq klen s).symm.trans h)
    by_cases hk : klen = 256
    · subst hk; exact .initLoad rfl
    · exact .initBadSize klen hk (if_neg hk)
  | update len =>
    obtain rfl := Host.Outcome.next.inj ((execUpdate_eq len s).symm.trans h)
    by_cases hl : s.din.length < len
    · exact .updateWait len hl (if_pos hl)
    · cases hv : s.valid with
      | false => exact .updateNoContext len (by omega) hv (by simp [hl])
      | true => exact .updateFold len (by omega) hv (by simp [hl])
  | final =>
    obtain rfl := Host.Outcome.next.inj ((execFinal_eq s).symm.trans h)
    cases hv : s.valid with
    | false => exact .finalNoContext hv (by simp)
    | true => exact .finalTag hv (by simp)
  | verify =>
    obtain rfl := Host.Outcome.next.inj ((execVerify_eq s).symm.trans h)
    cases hv : s.valid with
    | false => exact .verifyNoContext hv (by simp)
    | true => exact .verifyVerdict hv (by simp)

end Sys2Proof.Machine
end

