-- ==== Sys2Proof/Laws/PerInstr.lean ====
section
/-!
SUPPORT. The family `EncodedFields`: the fields of the word that each command is written as (R60, R61).
-/

namespace Sys2Proof.Laws.EncodedFields

/-- `OP` as R61 numbers it. -/
def opcode : Instr → BitVec 4
  | .init _ => 0x1#4
  | .update _ => 0x2#4
  | .final => 0x3#4
  | .verify => 0x4#4

/-- `ARG` as R61 gives it. -/
def argument : Instr → Nat
  | .init klen => klen
  | .update len => len
  | .final => 0
  | .verify => 0

/-- The fields of the encoded word: `OP` of the command, `RSV = 0`, and `ARG` the argument in 16 bits. -/
def Statement (i : Instr) : Prop :=
  opField (encode i) = opcode i ∧ rsvField (encode i) = 0#12 ∧ argField (encode i) = BitVec.ofNat 16 (argument i)

/-- The fields that `encodeFields` writes are read back. -/
theorem encodeFields_fields (op : BitVec 4) (arg : BitVec 16) :
    opField (encodeFields op arg) = op ∧ rsvField (encodeFields op arg) = 0#12 ∧ argField (encodeFields op arg) = arg := by
  unfold encodeFields opField rsvField argField
  refine ⟨?_, ?_, ?_⟩ <;> (apply BitVec.eq_of_getLsbD_eq; intro i hi) <;>
    simp only [BitVec.getLsbD_extractLsb', BitVec.getLsbD_append, BitVec.getLsbD_zero] <;>
    rcases i with _ | _ | _ | _ | _ | _ | _ | _ | _ | _ | _ | _ | _ | _ | _ | _ | i <;> simp_all <;> omega

theorem init (klen : Nat) : Statement (.init klen) := encodeFields_fields _ _

theorem update (len : Nat) : Statement (.update len) := encodeFields_fields _ _

theorem final : Statement .final := encodeFields_fields _ _

theorem verify : Statement .verify := encodeFields_fields _ _

end Sys2Proof.Laws.EncodedFields
end

