-- ==== Sys2Proof/Laws/Step.lean ====
section
/-!
SUPPORT. What one step can do, once, and how the response word reads back.
-/

namespace Sys2Proof.Machine

/-- The responses are the words of R67 and R161. -/
theorem okResponse_rsp (m : Bool) (t : U128) : (okResponse m t).rsp = if m then 0x10#8 else 0x00#8 := by
  cases m <;> rfl

@[simp] theorem okResponse_tagOut (m : Bool) (t : U128) : (okResponse m t).tagOut = t := rfl

theorem errorResponse_rsp (st : Status) : (errorResponse st).rsp = BitVec.setWidth 8 (statusCode st) := by
  cases st <;> rfl

@[simp] theorem errorResponse_tagOut (st : Status) : (errorResponse st).tagOut = 0#128 := rfl

/-- A response carries an error exactly when the number in `RSP[3:0]` is not 0 (R67, R161). -/
theorem Response.failed_eq (r : Response) : r.failed = decide (r.rsp.toNat % 2 ^ 4 ≠ 0) := by
  have h : r.status = statusCode .ok ↔ r.rsp.toNat % 2 ^ 4 = 0 := by
    rw [← BitVec.toNat_inj, Response.status, BitVec.extractLsb'_toNat, Nat.shiftRight_zero]
    rfl
  rw [Response.failed, bne, beq_eq_decide, ← decide_not, decide_eq_decide, not_iff_not, h]

/-- After a response without an error the host goes on as it meant to. -/
theorem actionsAfter_ok (m : Bool) (t : U128) (skip : Nat) (rest : List HostAction) :
    actionsAfter (okResponse m t) skip rest = rest := by
  rw [actionsAfter, if_neg (by rw [Response.failed_eq, okResponse_rsp]; cases m <;> decide)]

/-- After an error it leaves out the actions to skip. -/
theorem actionsAfter_error {st : Status} (h : st ≠ .ok) (skip : Nat) (rest : List HostAction) :
    actionsAfter (errorResponse st) skip rest = rest.drop skip := by
  rw [actionsAfter, if_pos (by cases st <;> first | exact absurd rfl h | rfl)]

/-- A take that skips nothing goes on with the next action, whatever the response. -/
@[simp] theorem actionsAfter_zero (r : Response) (rest : List HostAction) : actionsAfter r 0 rest = rest := by
  rw [actionsAfter, List.drop_zero, ite_self]

/-- What a move of the host can be, when it answers a next state. -/
inductive HostCase (s t : State) : Prop where
  | done (h : s.host = []) (ht : t = s)
  | reset (rest : List HostAction) (h : s.host = .reset :: rest) (ht : t = s.assertReset.hostRest rest)
  | wait (rest : List HostAction) (h : s.host = .wait :: rest) (ht : t = s.hostRest rest)
  | supply (bytes : List Byte) (rest : List HostAction) (h : s.host = .supply bytes :: rest)
      (ht : t = (s.supplyDin bytes).hostRest rest)
  | takeNothing (skip : Nat) (rest : List HostAction) (h : s.host = .take skip :: rest) (ho : s.out = none) (ht : t = s)
  | take (r : Response) (skip : Nat) (rest : List HostAction) (h : s.host = .take skip :: rest) (ho : s.out = some r)
      (ht : t = (s.takeResponse r).hostRest (actionsAfter r skip rest))
  | present (w : Word) (key : KeyBus) (tagIn : U128) (rest : List HostAction)
      (h : s.host = .present w key tagIn :: rest) (hc : s.cmd = none) (ho : s.out = none)
      (ht : t = (s.presentCommand w key tagIn).hostRest rest)

/-- What a move of the host can do. -/
theorem hostMove_cases {s t : State} (h : hostMove s = .next t) : HostCase s t := by
  unfold hostMove at h
  split at h
  case h_1 hh => exact .done hh (Host.Outcome.next.inj h).symm
  case h_2 rest hh => exact .reset rest hh (Host.Outcome.next.inj h).symm
  case h_3 rest hh => exact .wait rest hh (Host.Outcome.next.inj h).symm
  case h_4 bytes rest hh => exact .supply bytes rest hh (Host.Outcome.next.inj h).symm
  case h_5 skip rest hh =>
    split at h
    case h_1 ho => exact .takeNothing skip rest hh ho (Host.Outcome.next.inj h).symm
    case h_2 r ho => exact .take r skip rest hh ho (Host.Outcome.next.inj h).symm
  case h_6 w key tagIn rest hh =>
    split at h
    case isTrue => cases h
    case isFalse hb =>
      simp only [State.busy, Bool.or_eq_true, not_or, Bool.not_eq_true, Option.isSome_eq_false_iff,
        Option.isNone_iff_eq_none] at hb
      exact .present w key tagIn rest hh hb.1 hb.2 (Host.Outcome.next.inj h).symm

/-- The only refusal of a move of the host. -/
theorem hostMove_refused {s : State} {why : Refusal} (h : hostMove s = .refused why) :
    why = .overlappingCommand ∧ s.busy = true ∧ ∃ w key tagIn rest, s.host = .present w key tagIn :: rest := by
  unfold hostMove at h
  split at h
  case h_1 => cases h
  case h_2 => cases h
  case h_3 => cases h
  case h_4 => cases h
  case h_5 => split at h <;> cases h
  case h_6 w key tagIn rest hh =>
    split at h
    case isTrue hb => exact ⟨(Host.Outcome.refused.inj h).symm, hb, w, key, tagIn, rest, hh⟩
    case isFalse => cases h

/-- Performing a command word always answers a next state. -/
theorem runCommand_next (w : Word) (s : State) : ∃ t, runCommand w s = .next t := by
  unfold runCommand
  split
  · exact exec_next _ _
  · exact ⟨_, rfl⟩

/-- What a step can be, when it answers a next state: a move of the host, or a command performed. -/
inductive StepCase (s t : State) : Prop where
  | host (hw : s.resetNext = true ∨ s.cmd = none ∨ ∃ w, s.cmd = some w ∧ s.out = none ∧ s.starved w = true)
      (h : HostCase s t)
  | illegal (w : Word) (why : IllegalReason) (hr : s.resetNext = false) (hc : s.cmd = some w) (ho : s.out = none)
      (hs : s.starved w = false) (hd : decode w = .illegal why) (ht : t = s.raise .illegalCmd)
  | command (w : Word) (i : Instr) (hr : s.resetNext = false) (hc : s.cmd = some w) (ho : s.out = none)
      (hs : s.starved w = false) (hd : decode w = .legal i) (h : ExecCase s t i)

/-- What a step can do. -/
theorem step_cases {s t : State} (h : step s = .next t) : StepCase s t := by
  unfold step at h
  split at h
  case isTrue hr => exact .host (.inl hr) (hostMove_cases h)
  case isFalse hr =>
    replace hr : s.resetNext = false := by simpa using hr
    split at h
    case h_1 hc => exact .host (.inr (.inl hc)) (hostMove_cases h)
    case h_2 w hc =>
      split at h
      case isTrue => cases h
      case isFalse ho =>
        replace ho : s.out = none := by simpa using ho
        split at h
        case isTrue hs => exact .host (.inr (.inr ⟨w, hc, ho, hs⟩)) (hostMove_cases h)
        case isFalse hs =>
          replace hs : s.starved w = false := by simpa using hs
          unfold runCommand at h
          split at h
          case h_1 i hd => exact .command w i hr hc ho hs hd (exec_cases h)
          case h_2 why hd => exact .illegal w why hr hc ho hs hd (Host.Outcome.next.inj h).symm

/-- No step faults: the type of faults is empty. -/
theorem step_no_fault (s : State) (f : Fault) : step s ≠ .fault f := by cases f

end Sys2Proof.Machine
end

