-- ==== Sys2Proof/Laws/Tag.lean ====
section
/-!
SUPPORT. The machine's loop, tag and comparison against the plain arithmetic of Safety.
-/

namespace Sys2Proof.Machine

open Sys2Proof.Safety

theorem blockValue_eq_markedBlock {b : List Byte} (h : b.length = 16) : blockValue b = markedBlock b := by
  rw [blockValue, markedBlock, h]

/-- The first block's value stands first. -/
theorem blockValues_cons (w : List Byte) (n : Nat) (h : w.length / 16 = n + 1) :
    blockValues w = blockValue (w.take 16) :: blockValues (w.drop 16) := by
  have hn : (w.drop 16).length / 16 = n := by rw [List.length_drop]; omega
  unfold blockValues
  rw [h, hn, List.range_succ_eq_map, List.map_cons, List.map_map, Nat.mul_zero, List.drop_zero,
    blockValue_eq_markedBlock (by rw [List.length_take]; omega)]
  congr 1
  apply List.map_congr_left
  intro i _
  rw [Function.comp, List.drop_drop, Nat.mul_succ, Nat.add_comm]

/-- The loop over all full blocks is the fold of their values. -/
theorem absorb_fst_val (r : U128) (n : Nat) (h : FieldElem) (w : List Byte) (hn : w.length / 16 = n) :
    (absorb r n h w).1.val = polyFold r.toNat h.val (blockValues w) := by
  induction n generalizing h w with
  | zero => simp [blockValues, hn, polyFold]
  | succ n ih =>
    rw [absorb_succ, ih _ _ (by rw [List.length_drop]; omega), blockValues_cons w n hn, polyFold, polyFold,
      List.foldl_cons, foldBlock_val]

/-- `H` after all full blocks of `w`. -/
theorem absorbAll_fst_val (r : U128) (h : FieldElem) (w : List Byte) :
    (absorbAll r h w).1.val = polyFold r.toNat h.val (blockValues w) := absorb_fst_val r _ h w rfl

theorem tailBytes_length (m : List Byte) : (tailBytes m).length = m.length % 16 := by
  rw [tailBytes, List.length_drop]
  omega

/-- The short block folded in, on plain integers. -/
theorem foldPending_val (r : U128) (h : FieldElem) (b : List Byte) (l : BitVec 4) :
    (foldPending r h b l).val = pendingFold r.toNat h.val (b.take l.toNat) l.toNat := by
  unfold foldPending pendingFold
  split
  · rw [foldBlock_val]
  · rfl

theorem tag_length (s : State) : s.tag.length = 16 := tole_length _ _

theorem tagInBytes_length (x : U128) : (tagInBytes x).length = 16 := tole_length _ _

/-- How many pairs a comparison has examined. -/
theorem compare_cost (l : List (Byte × Byte)) (c : Comparison) :
    (l.foldl compareByte c).cost = c.cost + l.length := by
  induction l generalizing c with
  | nil => rfl
  | cons x xs ih =>
    rw [List.foldl_cons, ih, List.length_cons]
    show c.cost + 1 + xs.length = _
    omega

/-- Which bits of the difference accumulator are set. -/
theorem compare_diff (l : List (Byte × Byte)) (c : Comparison) (j : Nat) :
    (l.foldl compareByte c).diff.getLsbD j = true ↔
      c.diff.getLsbD j = true ∨ ∃ x ∈ l, (x.1 ^^^ x.2).getLsbD j = true := by
  induction l generalizing c with
  | nil => simp
  | cons x xs ih =>
    rw [List.foldl_cons, ih, compareByte, BitVec.getLsbD_or, Bool.or_eq_true, List.exists_mem_cons_iff, or_assoc]

end Sys2Proof.Machine
end

