-- ==== Sys2Proof/Tests/Slice0.lean ====
section
/-!
SUPPORT. Tests by evaluation, their expected results from spec/95_test_vectors.md and the rules named, and for each
statement with hypotheses a witness that meets them.
-/

namespace Sys2Proof.Tests

open Sys2Proof Sys2Proof.Machine Sys2Proof.Safety

/-! ### States -/

/-- The key of vector V1 on its bus. -/
def keyV1 : KeyBus := 0x1bf54941aff6bf4afdb20dfb8a800301a806d542fe52447f336d555778bed685#256

/-- The 34 message bytes of vector V1. -/
def msgV1 : List Byte :=
  [0x43, 0x72, 0x79, 0x70, 0x74, 0x6f, 0x67, 0x72, 0x61, 0x70, 0x68, 0x69, 0x63, 0x20, 0x46, 0x6f,
   0x72, 0x75, 0x6d, 0x20, 0x52, 0x65, 0x73, 0x65, 0x61, 0x72, 0x63, 0x68, 0x20, 0x47, 0x72, 0x6f, 0x75, 0x70]

/-- After `INIT` with the key of V1. -/
def begunV1 : State :=
  { State.reset with
    valid := true
    key := keyV1
    regR := 0x0806d5400e52447c036d555408bed685#128
    regS := 0x1bf54941aff6bf4afdb20dfb8a800301#128 }

/-- After `UPDATE` with the message of V1. -/
def fedV1 : State :=
  { begunV1 with
    regH := ⟨0x2d8adaf23b0337fa7cccfb4ea344b30de, by decide⟩
    buf := [0x75, 0x70]
    bufLen := 2#4 }

/-- A context with given `R` and `S`, and bytes on `DIN`. -/
def small (r mask : Nat) (bytes : List Byte) : State :=
  { State.reset with valid := true, regR := BitVec.ofNat 128 r, regS := BitVec.ofNat 128 mask, din := bytes }

/-- A state with a command word presented. -/
def asked (w : Word) (s : State) : State := { s with cmd := some w }

/-- A part of the state an outcome leaves. -/
def after {α : Type} (f : State → α) : Host.Outcome State Fault Refusal → Option α
  | .next s => some (f s)
  | .fault _ => none
  | .refused _ => none

/-- An outcome is a refusal. -/
def isRefused : Host.Outcome State Fault Refusal → Bool
  | .refused _ => true
  | _ => false

/-! ### Well-formedness (R60: `ARG` has 16 bits) -/

theorem test_wellFormed_refuses_klen_over_16_bits : ¬ (Instr.init 65536).WellFormed := by decide

theorem test_wellFormed_refuses_len_over_maxlen : ¬ (Instr.update 65536).WellFormed := by decide

theorem test_wellFormed_accepts_the_largest_arguments :
    (Instr.init 65535).WellFormed ∧ (Instr.update 65535).WellFormed ∧ Instr.final.WellFormed ∧
      Instr.verify.WellFormed := by decide

/-! ### Decoding, words written out from R60 to R65: `OP` 4 bits, `RSV` 12, `ARG` 16 -/

theorem test_decode_init_256 : decode 0b0001_000000000000_0000000100000000#32 = .legal (.init 256) := by decide

theorem test_decode_update_34 : decode 0b0010_000000000000_0000000000100010#32 = .legal (.update 34) := by decide

theorem test_decode_final : decode 0b0011_000000000000_0000000000000000#32 = .legal .final := by decide

theorem test_decode_verify : decode 0b0100_000000000000_0000000000000000#32 = .legal .verify := by decide

/-- `RSV` is looked at before `OP` (R70, conflict C9). -/
theorem test_decode_reserved_bits_first : decode 0x20010010#32 = .illegal .reservedBits := by decide

theorem test_decode_final_with_argument : decode 0x30000001#32 = .illegal .nonzeroArg := by decide

theorem test_decode_reserved_ops :
    decode 0x00000100#32 = .illegal .reservedOp ∧ decode 0xf0000000#32 = .illegal .reservedOp := by decide

theorem test_encode_update_65535 : encode (.update 65535) = 0x2000ffff#32 := by decide

theorem test_table_words :
    decodeTableWord 32 0x10000000 = some (.init 0) ∧ decodeTableWord 32 0x20000000 = some (.update 0) ∧
    decodeTableWord 32 0x30000000 = some .final ∧ decodeTableWord 32 0x40000000 = some .verify ∧
    decodeTableWord 32 0x50000000 = none := by decide

/-! ### Arithmetic (section 2 of the vectors) -/

theorem test_feAdd_reduces_once : (feAdd (feCanon (2 ^ 130 - 6)) (toField (2 ^ 129 - 1))).val =
    0x1fffffffffffffffffffffffffffffffe := by decide

theorem test_feMul_folds_the_top : (feMul (toField (2 ^ 129)) (toField 2)).val = 5 := by decide

theorem test_canon_then_truncate : trunc128 (feCanon (2 ^ 130 - 2)) = 3#128 := by decide

theorem test_le_and_tole : le [0x75, 0x70] = 0x7075 ∧ tole 4 0x01020304 = [0x04, 0x03, 0x02, 0x01] := by decide

/-! ### INIT -/

/-- V1. -/
theorem test_init_v1 :
    after (fun s => (s.valid, s.regR, s.regS, s.out)) (exec (.init 256) { State.reset with key := keyV1 }) =
      some (true, 0x0806d5400e52447c036d555408bed685#128, 0x1bf54941aff6bf4afdb20dfb8a800301#128,
        some ⟨0x00#8, 0#128⟩) := by decide

/-- V9: `KLEN = 255` on a context: `INVALID_KEY_SIZE`, the context kept. -/
theorem test_init_bad_size_keeps_the_context :
    after (fun s => (s.valid, s.regH.val, s.buf, s.out)) (exec (.init 255) fedV1) =
      some (true, 0x2d8adaf23b0337fa7cccfb4ea344b30de, [0x75, 0x70], some ⟨0x01#8, 0#128⟩) := by decide

/-! ### UPDATE -/

/-- V1: two blocks folded, two bytes pending. -/
theorem test_update_v1 :
    after (fun s => (s.regH.val, s.buf, s.bufLen, s.din)) (exec (.update 34) { begunV1 with din := msgV1 ++ [0xee] }) =
      some (0x2d8adaf23b0337fa7cccfb4ea344b30de, [0x75, 0x70], 2#4, [0xee]) := by decide

/-- P3, steps 8 and 10: a block ends with the byte that completes it, pending bytes first. -/
theorem test_update_completes_the_block :
    after (fun s => (s.regH.val, s.buf, s.bufLen)) (exec (.update 1)
      { small 1 1 [0xff] with buf := List.replicate 15 0xff, bufLen := 15#4 }) =
      some (0x1ffffffffffffffffffffffffffffffff, [], 0#4) := by decide

/-! ### FINAL -/

/-- V1: the two pending bytes with their marker, and the mask. -/
theorem test_final_v1 :
    after (fun s => (s.out, s.buf)) (exec .final fedV1) =
      some (some ⟨0x00#8, 0xa927010caf8b2bc2c6365130c11d06a8#128⟩, [0x75, 0x70]) := by decide

/-- V8: truncation of bit 128, and the carry of the mask addition dropped. -/
theorem test_final_wraps :
    after (fun s => s.out) (exec .final { small 1 1 [] with regH := ⟨2 ^ 129 - 1, by decide⟩ }) =
      some (some ⟨0x00#8, 0#128⟩) := by decide

/-! ### VERIFY -/

/-- V12. -/
theorem test_verify_match :
    after (fun s => s.out) (exec .verify { fedV1 with tagIn := 0xa927010caf8b2bc2c6365130c11d06a8#128 }) =
      some (some ⟨0x10#8, 0#128⟩) := by decide

/-- V14: the last byte differs in its top bit; `d = 0x80`, 16 pairs examined. -/
theorem test_verify_mismatch_in_the_last_byte :
    State.comparison { fedV1 with tagIn := 0x2927010caf8b2bc2c6365130c11d06a8#128 } = ⟨0x80#8, 16⟩ ∧
    after (fun s => s.out) (exec .verify { fedV1 with tagIn := 0x2927010caf8b2bc2c6365130c11d06a8#128 }) =
      some (some ⟨0x00#8, 0#128⟩) := by decide

/-! ### The step and the host -/

/-- P1, step 0: the first command after reset. -/
theorem test_step_runs_the_word_on_the_port :
    after (fun s => s.out) (step (State.reset.withFetchWord 32 0x30000000)) = some (some ⟨0x02#8, 0#128⟩) := by decide

/-- P3, step 5. -/
theorem test_step_illegal_word :
    after (fun s => (s.out, s.regH.val, s.cmd)) (step (asked 0x50000000#32 fedV1)) =
      some (some ⟨0x03#8, 0#128⟩, 0x2d8adaf23b0337fa7cccfb4ea344b30de, none) := by decide

/-- R191: an `UPDATE` whose payload is short waits, and goes on when the host supplies the rest. -/
theorem test_starved_update_waits_for_the_host :
    after (fun s => (s.cmd, s.out, s.din)) (step { asked 0x20000003#32 begunV1 with
      din := [0x61], host := [.supply [0x62, 0x63]] }) =
      some (some 0x20000003#32, none, [0x61, 0x62, 0x63]) := by decide

/-- R151, R106: the one-shot form with `KLEN = 255` ends with its `INIT`; the host goes on with what comes after it. -/
theorem test_one_shot_stops_at_a_failing_init :
    (runSteps 3 { fedV1 with host := oneShotActions 255 keyV1 [0x61] ++ [.wait] }).map
      (fun s => (s.host, s.received, s.regH.val, s.din)) =
      some ([.wait], [⟨0x01#8, 0#128⟩], 0x2d8adaf23b0337fa7cccfb4ea344b30de, []) := by decide

/-- R185: reset in the middle of a command. -/
theorem test_reset_abandons_the_command :
    after (fun s => (s.valid, s.cmd, s.out)) (step { asked 0x30000000#32 fedV1 with host := [.reset] }) =
      some (false, none, none) := by decide

/-! ### Witnesses: for each statement with hypotheses, values that meet them -/

theorem witness_DecodeOfEncode : (Instr.update 65535).WellFormed ∧ (Instr.init 0).WellFormed := by decide

theorem witness_EncodeOfDecode : ∃ (w : Word) (i : Instr), decode w = .legal i := ⟨0x2000ffff#32, .update 65535, by decide⟩

theorem witness_EncodingsAreTheWordsOfTheTable : (65535 : Nat) < 2 ^ 16 := by decide

/-- `Runs` and a decoding, for a command with a payload. -/
theorem witness_StepRunsTheDecodedCommand :
    ∃ (s : State) (w : Word) (i : Instr), Runs s w ∧ decode w = .legal i :=
  ⟨{ asked 0x20000003#32 begunV1 with din := [1, 2, 3] }, 0x20000003#32, .update 3, by decide⟩

theorem witness_IllegalWordChangesNothing :
    ∃ (s : State) (w : Word) (why : IllegalReason),
      decode w = .illegal why ∧ s.cmd = some w ∧ s.out = none ∧ s.resetNext = false :=
  ⟨asked 0x28000010#32 fedV1, 0x28000010#32, .reservedBits, by decide⟩

/-- The responses with `MATCH` and with a tag occur. -/
theorem witness_EveryCommandGivesOneResponse :
    Runs (asked 0x30000000#32 fedV1) 0x30000000#32 ∧
    Runs (asked 0x40000000#32 { fedV1 with tagIn := 0xa927010caf8b2bc2c6365130c11d06a8#128 }) 0x40000000#32 := by decide

theorem witness_StatusOfEveryCommand :
    ∃ (s t : State) (w : Word), Runs s w ∧ step s = .next t :=
  ⟨asked 0x10000080#32 fedV1, _, 0x10000080#32, by decide, rfl⟩

theorem witness_IdleCoreWaits : ∃ s : State, s.cmd = none ∧ s.host = [] := ⟨fedV1, by decide⟩

/-- One state for each clause. -/
theorem witness_HostMovesOnIdlePort :
    (∃ s : State, s.cmd = none ∧ s.out = none ∧ s.host = [.present 0x30000000#32 0#256 0#128]) ∧
    (∃ s : State, s.cmd = none ∧ s.host = [.supply [0xff]]) ∧
    (∃ s : State, s.cmd = none ∧ s.out = some ⟨0x10#8, 0#128⟩ ∧ s.host = [.take 0]) ∧
    (∃ s : State, s.cmd = none ∧ s.host = [.wait]) :=
  ⟨⟨{ fedV1 with host := [.present 0x30000000#32 0#256 0#128] }, by decide⟩,
   ⟨{ fedV1 with host := [.supply [0xff]] }, by decide⟩,
   ⟨{ fedV1 with out := some ⟨0x10#8, 0#128⟩, host := [.take 0] }, by decide⟩,
   ⟨{ fedV1 with host := [.wait] }, by decide⟩⟩

/-- One byte short, with a host that does nothing and with one that supplies it. -/
theorem witness_StarvedUpdateWaits :
    ∃ (s : State) (w : Word), s.cmd = some w ∧ decode w = .legal (.update 3) ∧ s.out = none ∧ s.din.length < 3 ∧
      s.host = [] ∧ ∃ s' : State, s' = { s with host := [.supply [0x63]] } :=
  ⟨{ asked 0x20000003#32 begunV1 with din := [0x61, 0x62] }, 0x20000003#32,
    by decide, by decide, by decide, by decide, by decide, _, rfl⟩

/-- Reset on an idle port and in an `UPDATE`. -/
theorem witness_ResetClearsValidAndAbandons :
    (∃ s : State, s.host = [.reset] ∧ s.cmd = none) ∧
    (∃ s : State, s.host = [.reset] ∧ s.cmd = some 0x20000003#32) :=
  ⟨⟨{ fedV1 with host := [.reset] }, by decide⟩, ⟨{ asked 0x20000003#32 fedV1 with host := [.reset] }, by decide⟩⟩

/-- A second command while a response waits, and while an `UPDATE` waits for its payload: both are refused. -/
theorem witness_OnlyOverlapIsRefused :
    (∃ s : State, Inv s ∧ s.out.isSome = true ∧ isRefused (step s) = true) ∧
    (∃ s : State, Inv s ∧ s.cmd.isSome = true ∧ isRefused (step s) = true) :=
  ⟨⟨{ fedV1 with out := some ⟨0x00#8, 0#128⟩, host := [.present 0x30000000#32 0#256 0#128] }, by decide⟩,
   ⟨{ asked 0x20000003#32 fedV1 with host := [.present 0x30000000#32 0#256 0#128] }, by decide⟩⟩

/-- Both changes of `VALID` occur. -/
theorem witness_ValidChangesOnlyByInitAndReset :
    (∃ s t : State, step s = .next t ∧ s.valid = true ∧ t.valid = false) ∧
    (∃ s t : State, step s = .next t ∧ s.valid = false ∧ t.valid = true) :=
  ⟨⟨{ fedV1 with host := [.reset] }, _, rfl, rfl, rfl⟩, ⟨asked 0x10000100#32 State.reset, _, rfl, rfl, rfl⟩⟩

/-- Both kinds of write occur. -/
theorem witness_OnlyInitAndUpdateWriteRegisters :
    (∃ s t : State, step s = .next t ∧ s.resetNext = false ∧ t.regR ≠ s.regR) ∧
    (∃ s t : State, step s = .next t ∧ s.resetNext = false ∧ t.buf ≠ s.buf) :=
  ⟨⟨asked 0x10000100#32 { State.reset with key := keyV1 }, _, rfl, by decide, by decide⟩,
   ⟨{ asked 0x20000001#32 begunV1 with din := [0x61] }, _, rfl, by decide, by decide⟩⟩

/-- An error with and without bytes removed from `DIN`. -/
theorem witness_ErrorsWriteNoRegister :
    (∃ (s t : State) (w : Word) (r : Response), Runs s w ∧ step s = .next t ∧ t.out = some r ∧
      r.rsp.toNat % 2 ^ 4 ≠ 0 ∧ decode w = .legal (.update 3)) ∧
    (∃ (s t : State) (w : Word) (r : Response), Runs s w ∧ step s = .next t ∧ t.out = some r ∧
      r.rsp.toNat % 2 ^ 4 ≠ 0 ∧ decode w = .legal (.init 255)) :=
  ⟨⟨{ asked 0x20000003#32 State.reset with din := [1, 2, 3] }, _, 0x20000003#32, _, by decide, rfl, rfl, by decide, by decide⟩,
   ⟨asked 0x100000ff#32 fedV1, _, 0x100000ff#32, _, by decide, rfl, rfl, by decide, by decide⟩⟩

theorem witness_RetryFailsIdentically :
    ∃ (s t : State) (i : Instr) (r : Response), exec i s = .next t ∧ t.out = some r ∧ s.out = none ∧
      r.rsp.toNat % 2 ^ 4 ≠ 0 :=
  ⟨{ State.reset with din := [1, 2, 3] }, _, .update 3, _, rfl, rfl, rfl, by decide⟩

/-- The sizes on either side of the only one accepted. -/
theorem witness_InitRefusesOtherKeySizes : (255 : Nat) ≠ 256 ∧ (257 : Nat) ≠ 256 ∧ (0 : Nat) ≠ 256 := by decide

/-- For ClampInTheWordView, ClampInTheByteView and InitFrame. -/
theorem witness_InitCompletes : ∃ s t : State, exec (.init 256) s = .next t := ⟨{ fedV1 with key := keyV1 }, _, rfl⟩

theorem witness_ZeroMultiplierGivesTheMask :
    ∃ (s : State) (key : KeyBus) (msg : List Byte), Represents s key msg ∧ s.regR = 0#128 :=
  ⟨{ State.reset with valid := true, regS := 5#128, buf := [0x61], bufLen := 1#4 }, 0x5#128 ++ 0xf0000000#128, [0x61],
    by decide⟩

/-- Exactly the bytes of the payload, and one block completed by the last of them. -/
theorem witness_UpdateFoldsTheBlocks :
    ∃ (s : State) (len : Nat), s.valid = true ∧ len = s.din.length ∧ s.buf.length + len = 16 :=
  ⟨{ small 1 1 [0xff] with buf := List.replicate 15 0xff, bufLen := 15#4 }, 1, by decide⟩

theorem witness_UpdateWithoutContextDiscards :
    ∃ (s : State) (len : Nat), s.valid = false ∧ len ≤ s.din.length ∧ 0 < len :=
  ⟨{ State.reset with din := [1, 2, 3] }, 3, by decide⟩

theorem witness_EmptyUpdateChangesNothing : Inv fedV1 ∧ fedV1.valid = true ∧ Inv State.reset := by decide

theorem witness_ChunkingEquivalence :
    (∃ s : State, s.valid = true) ∧ (∃ s s0 : State, issue (.init 256) s = some s0) :=
  ⟨⟨fedV1, rfl⟩, ⟨State.reset, _, rfl⟩⟩

theorem witness_FullBlockMarker : (List.replicate 16 (0xff : Byte)).length = 16 := by decide

/-- The shortest and the longest short block. -/
theorem witness_ShortBlockMarker :
    (0 < (1#4).toNat ∧ [(0xff : Byte)].length = (1#4).toNat) ∧
    (0 < (15#4).toNat ∧ (List.replicate 15 (0xff : Byte)).length = (15#4).toNat) := by decide

/-- For FinalOutputsTheTag, VerifyReportsEquality. -/
theorem witness_ContextHeld : ∃ s : State, s.valid = true ∧ s.buf ≠ [] := ⟨fedV1, by decide⟩

/-- `FINAL` with and without a context. -/
theorem witness_FinalIsAProjection :
    (∃ s t : State, exec .final s = .next t ∧ s.valid = true) ∧ (∃ s t : State, exec .final s = .next t ∧ s.valid = false) :=
  ⟨⟨fedV1, _, rfl, rfl⟩, ⟨State.reset, _, rfl, rfl⟩⟩

theorem witness_TagCommandsNeedAContext : State.reset.valid = false := rfl

theorem witness_VerifyAcceptsExactlyTheFinalTag :
    ∃ (s t : State) (r : Response), s.valid = true ∧ exec .final s = .next t ∧ t.out = some r :=
  ⟨fedV1, _, _, rfl, rfl, rfl⟩

theorem witness_FinalAndVerifyWriteNoRegister :
    (∃ s t : State, exec .final s = .next t) ∧ (∃ s t : State, exec .verify s = .next t) :=
  ⟨⟨fedV1, _, rfl⟩, ⟨fedV1, _, rfl⟩⟩

/-- `UPDATE` waiting, failing and folding. -/
theorem witness_UpdateFrame :
    (∃ s t : State, exec (.update 1) s = .next t ∧ s.din.length < 1) ∧
    (∃ s t : State, exec (.update 1) s = .next t ∧ s.valid = false ∧ 1 ≤ s.din.length) ∧
    (∃ s t : State, exec (.update 1) s = .next t ∧ s.valid = true ∧ 1 ≤ s.din.length) :=
  ⟨⟨fedV1, _, rfl, by decide⟩, ⟨{ State.reset with din := [7] }, _, rfl, by decide⟩,
   ⟨{ begunV1 with din := [7] }, _, rfl, by decide⟩⟩

theorem witness_ArithmeticBounds : Inv fedV1 ∧ fedV1.valid = true ∧ 2 ^ 129 - 1 < 2 ^ 129 := by decide

/-- The largest value of one byte and of no byte. -/
theorem witness_SerializationBytes : 255 < 2 ^ (8 * 1) ∧ (0 : Nat) < 1 ∧ 0 < 2 ^ (8 * 0) := by decide

/-- The last byte of the tag and of the key. -/
theorem witness_BusesAndTagBytes : (31 : Nat) < 32 ∧ (15 : Nat) < 16 := by decide

theorem witness_EveryStepKeepsTheInvariant : ∃ s t : State, Inv s ∧ step s = .next t :=
  ⟨{ asked 0x20000003#32 fedV1 with din := [1, 2, 3] }, _, by decide, rfl⟩

/-- The state of V1 after its message represents that key and message. -/
theorem witness_Represents : Represents fedV1 keyV1 msgV1 := by decide

theorem witness_ContextIsAlwaysOfSomeMessage : ∃ s t : State, HoldsSomeContext s ∧ step s = .next t :=
  ⟨asked 0x30000000#32 fedV1, _, fun _ => ⟨keyV1, msgV1, witness_Represents⟩, rfl⟩

theorem witness_StreamingRefinesOneShot :
    ∃ (s : State) (key : KeyBus) (msg : List Byte) (len : Nat), Represents s key msg ∧ len ≤ s.din.length ∧ 0 < len :=
  ⟨{ fedV1 with din := [0x21] }, keyV1, msgV1, 1, by decide⟩

theorem witness_MacProgramAnswersTheTag :
    ∃ (s : State) (key : KeyBus) (msg : List Byte),
      s.cmd = none ∧ s.out = none ∧ s.din = [] ∧ s.host = macActions key msg :=
  ⟨{ fedV1 with host := macActions keyV1 msgV1 }, keyV1, msgV1, rfl, rfl, rfl, rfl⟩

/-- The only length accepted and one beside it, with a context on the slot. -/
theorem witness_OneShotFailsExactlyWithItsInit :
    ∃ (s s' : State) (key : KeyBus) (msg : List Byte) (rest : List HostAction), (256 : Nat) < 2 ^ 16 ∧ 65535 < 2 ^ 16 ∧
      s.cmd = none ∧ s.out = none ∧ s.host = oneShotActions 256 key msg ++ rest ∧
      s'.cmd = none ∧ s'.out = none ∧ s'.host = oneShotActions 65535 key msg ++ rest :=
  ⟨{ fedV1 with host := oneShotActions 256 keyV1 msgV1 ++ [.wait] },
    { fedV1 with host := oneShotActions 65535 keyV1 msgV1 ++ [.wait] }, keyV1, msgV1, [.wait],
    by decide, by decide, rfl, rfl, rfl, rfl, rfl, rfl⟩

/-- Two states that differ in every data register, with no context. -/
theorem witness_UnspecifiedRegistersAreNeverRead :
    ∃ s s' t : State, SameView s s' ∧ step s = .next t ∧ s.regR ≠ s'.regR ∧ s.regS ≠ s'.regS ∧ s.regH ≠ s'.regH ∧
      s.buf ≠ s'.buf ∧ s.bufLen ≠ s'.bufLen :=
  ⟨asked 0x30000000#32 { State.reset with key := keyV1 }, asked 0x30000000#32 { fedV1 with valid := false }, _,
    by decide, rfl, by decide, by decide, by decide, by decide, by decide⟩

end Sys2Proof.Tests
end

/-!
Proofs for the family of the state: the invariants of every step, what a command may write, reset, and the clamp.
-/

namespace Sys2Proof.Machine

open Sys2Proof.Safety

/-! ### Command words -/

/-- A word with `RSV = 0` is written from its own fields (R60). -/
theorem encodeFields_self {w : Word} (h : rsvField w = 0#12) : encodeFields (opField w) (argField w) = w := by
  apply BitVec.eq_of_toNat_eq
  rw [rsvField_eq_zero_iff] at h
  rw [encodeFields_toNat, opField_toNat, argField_toNat]
  omega

/-- A legal word is the word of the command it decodes to (R60, R70). -/
theorem encode_of_decode {w : Word} {i : Instr} (h : decode w = .legal i) : encode i = w := by
  unfold decode at h
  split_ifs at h with hrsv h1 h2 h3 harg h4 harg <;> cases h
  all_goals refine Eq.trans ?_ (encodeFields_self (not_not.mp hrsv))
  · rw [encode, BitVec.ofNat_toNat, BitVec.setWidth_eq, h1]
  · rw [encode, BitVec.ofNat_toNat, BitVec.setWidth_eq, h2]
  · rw [encode, h3, harg]
  · rw [encode, h4, harg]

/-- The payload of a legal `UPDATE` is its `LEN` bytes (R69). -/
theorem payloadLength_update {w : Word} {len : Nat} (h : decode w = .legal (.update len)) : payloadLength w = len := by
  simp [payloadLength, h]

/-- An `UPDATE` that does not wait has its `LEN` bytes on `DIN` (R45, R191). -/
theorem le_din_of_not_starved {s : State} {w : Word} {len : Nat} (hd : decode w = .legal (.update len))
    (h : s.starved w = false) : len ≤ s.din.length := by
  simpa [State.starved, State.dinShort, payloadLength_update hd] using h

/-! ### Moves of the host, one equation for each -/

section HostMoves

variable {s : State} {rest : List HostAction}

theorem hostMove_done (h : s.host = []) : hostMove s = .next s := by
  simp only [hostMove, h]

theorem hostMove_reset (h : s.host = .reset :: rest) : hostMove s = .next (s.assertReset.hostRest rest) := by
  simp only [hostMove, h]

theorem hostMove_wait (h : s.host = .wait :: rest) : hostMove s = .next (s.hostRest rest) := by
  simp only [hostMove, h]

theorem hostMove_supply {bytes : List Byte} (h : s.host = .supply bytes :: rest) :
    hostMove s = .next ((s.supplyDin bytes).hostRest rest) := by
  simp only [hostMove, h]

theorem hostMove_takeNothing {skip : Nat} (h : s.host = .take skip :: rest) (ho : s.out = none) :
    hostMove s = .next s := by
  simp only [hostMove, h, ho]

theorem hostMove_take {skip : Nat} {r : Response} (h : s.host = .take skip :: rest) (ho : s.out = some r) :
    hostMove s = .next ((s.takeResponse r).hostRest (actionsAfter r skip rest)) := by
  simp only [hostMove, h, ho]

theorem hostMove_present {w : Word} {key : KeyBus} {tagIn : U128} (h : s.host = .present w key tagIn :: rest)
    (hc : s.cmd = none) (ho : s.out = none) :
    hostMove s = .next ((s.presentCommand w key tagIn).hostRest rest) := by
  simp [hostMove, h, State.busy, hc, ho]

theorem resetNext_of_host (h : s.host = .reset :: rest) : s.resetNext = true := by
  simp only [State.resetNext, h]

/-- The actions after a response, on its number in `RSP[3:0]`. -/
theorem actionsAfter_eq (r : Response) (skip : Nat) (rest : List HostAction) :
    actionsAfter r skip rest = if r.rsp.toNat % 2 ^ 4 = 0 then rest else rest.drop skip := by
  rw [actionsAfter, Response.failed_eq, ← ite_not]
  simp only [decide_eq_true_eq, ne_eq, Decidable.not_not]

end HostMoves

/-! ### Whose turn a step is -/

/-- The host moves in the next step: a reset stands next, no command is presented, or one waits for its payload. -/
abbrev HostTurn (s : State) : Prop :=
  s.resetNext = true ∨ s.cmd = none ∨ ∃ w, s.cmd = some w ∧ s.out = none ∧ s.starved w = true

theorem step_of_hostTurn {s : State} (h : HostTurn s) : step s = hostMove s := by
  unfold step
  split
  case isTrue => rfl
  case isFalse hr =>
    obtain hr' | hc | ⟨w, hc, ho, hs⟩ := h
    · exact absurd hr' hr
    · simp only [hc]
    · simp [hc, ho, hs]

theorem step_of_runs {s : State} {w : Word} (h : Runs s w) : step s = runCommand w s := by
  obtain ⟨hr, hc, ho, hs⟩ := h
  simp [step, hr, hc, ho, hs]

theorem runCommand_legal {w : Word} {i : Instr} (h : decode w = .legal i) (s : State) : runCommand w s = exec i s := by
  simp only [runCommand, h]

theorem runCommand_illegal {w : Word} {why : IllegalReason} (h : decode w = .illegal why) (s : State) :
    runCommand w s = .next (s.raise .illegalCmd) := by
  simp only [runCommand, h]

/-- The only word of `INIT` with `KLEN = 256` (R62). -/
theorem runs_init {s : State} {w : Word} (hw : Runs s w) (hd : decode w = .legal (.init 256)) :
    Runs s 0x10000100#32 := by
  have hword : 0x10000100#32 = w := encode_of_decode hd
  exact hword ▸ hw

/-! ### What a step does to the registers -/

/-- The register writes of an `UPDATE` that takes the bytes `x` (R110). -/
def State.absorbBytes (s : State) (x : List Byte) : State :=
  s.writeAccumulator (absorbAll s.regR s.regH (s.buf ++ x)).1 (absorbAll s.regR s.regH (s.buf ++ x)).2

/-- A response leaves the six registers and all that is no port of the command. -/
theorem respond_frame (s : State) (r : Response) : SameContext s (s.respond r) ∧ SameSurroundings s (s.respond r) := by
  simp [SameContext, SameSurroundings]

/-- What a step can do to the registers: reset, the load of an `INIT`, the fold of an `UPDATE`, or nothing. -/
inductive ContextCase (s t : State) : Prop where
  | reset (hr : s.resetNext = true) (h : SameContext s.assertReset t)
  | load (w : Word) (hw : Runs s w) (hd : decode w = .legal (.init 256))
      (h : SameContext (s.loadContext (keyR s.key) (keyS s.key)) t)
  | fold (w : Word) (len : Nat) (hw : Runs s w) (hd : decode w = .legal (.update len)) (hv : s.valid = true)
      (h : SameContext (s.absorbBytes (s.din.take len)) t)
  | same (h : SameContext s t)

theorem HostCase.context {s t : State} (h : HostCase s t) : ContextCase s t := by
  cases h with
  | reset rest hh ht => subst ht; exact .reset (resetNext_of_host hh) (by simp [SameContext])
  | done _ ht | wait _ _ ht | supply _ _ _ ht | takeNothing _ _ _ _ ht | take _ _ _ _ _ ht
  | present _ _ _ _ _ _ _ ht => subst ht; exact .same (by simp [SameContext])

theorem ExecCase.context {s t : State} {w : Word} {i : Instr} (hw : Runs s w) (hd : decode w = .legal i)
    (h : ExecCase s t i) : ContextCase s t := by
  cases h with
  | initLoad ht => subst ht; exact .load w hw hd (by simp [SameContext])
  | updateFold len _ hv ht => subst ht; exact .fold w len hw hd hv (by simp [SameContext, State.absorbBytes])
  | initBadSize _ _ ht | updateWait _ _ ht | updateNoContext _ _ _ ht | finalNoContext _ ht | finalTag _ ht
  | verifyNoContext _ ht | verifyVerdict _ ht => subst ht; exact .same (by simp [SameContext])

theorem step_context {s t : State} (h : step s = .next t) : ContextCase s t := by
  cases step_cases h with
  | host _ h => exact h.context
  | illegal w why _ _ _ _ _ ht => subst ht; exact .same (by simp [SameContext])
  | command w i hr hc ho hs hd h => exact h.context ⟨hr, hc, ho, hs⟩ hd

/-! ### What a step does to the command and the response -/

/-- A move of the host leaves no response, or the command and the response that were there. -/
theorem HostCase.port {s t : State} (h : HostCase s t) : t.out = none ∨ (t.cmd = s.cmd ∧ t.out = s.out) := by
  cases h with
  | reset _ _ ht | take _ _ _ _ _ ht => subst ht; exact .inl rfl
  | present _ _ _ _ _ _ ho ht => subst ht; exact .inl ho
  | done _ ht | wait _ _ ht | supply _ _ _ ht | takeNothing _ _ _ _ ht => subst ht; exact .inr ⟨rfl, rfl⟩

/-- `t` is a state in which the command `i`, performed in `s`, has ended with one response: `MATCH` only of a `VERIFY`, a
tag only of a `FINAL`, both with a context (R31, R67). -/
def Answers (i : Instr) (s t : State) : Prop :=
  t.cmd = none ∧ t.received = s.received ∧ ∃ (st : Status) (matched : Bool) (tagOut : U128),
    t.out = some ⟨rspWord st matched, tagOut⟩ ∧
    (matched = true → i = .verify ∧ s.valid = true) ∧ (tagOut ≠ 0#128 → i = .final ∧ s.valid = true)

theorem answers_raise (i : Instr) (s : State) (st : Status) : Answers i s (s.raise st) :=
  ⟨rfl, rfl, st, false, 0#128, rfl, nofun, fun h => absurd rfl h⟩

/-- A command ends with one response, or it is an `UPDATE` that waits. -/
theorem ExecCase.answers {s t : State} {i : Instr} (h : ExecCase s t i) :
    Answers i s t ∨ (t = s ∧ ∃ len, i = .update len ∧ s.din.length < len) := by
  cases h with
  | initBadSize klen _ ht => subst ht; exact .inl (answers_raise _ _ _)
  | initLoad ht => subst ht; exact .inl ⟨rfl, rfl, .ok, false, 0#128, rfl, nofun, fun h => absurd rfl h⟩
  | updateWait len hl ht => exact .inr ⟨ht, len, rfl, hl⟩
  | updateNoContext len _ _ ht => subst ht; exact .inl (answers_raise _ (s.dinDrop len) _)
  | updateFold len _ _ ht => subst ht; exact .inl ⟨rfl, rfl, .ok, false, 0#128, rfl, nofun, fun h => absurd rfl h⟩
  | finalNoContext _ ht => subst ht; exact .inl (answers_raise _ _ _)
  | finalTag hv ht => subst ht; exact .inl ⟨rfl, rfl, .ok, false, _, rfl, nofun, fun _ => ⟨rfl, hv⟩⟩
  | verifyNoContext _ ht => subst ht; exact .inl (answers_raise _ _ _)
  | verifyVerdict hv ht => subst ht; exact .inl ⟨rfl, rfl, .ok, _, 0#128, rfl, fun _ => ⟨rfl, hv⟩, fun h => absurd rfl h⟩

/-- No response waits while a command is in progress, and every step keeps that (R190). -/
theorem step_keeps_oneCommand {s t : State} (h : step s = .next t) (hs : s.cmd.isSome = true → s.out = none) :
    t.cmd.isSome = true → t.out = none := by
  intro ht
  cases step_cases h with
  | host _ h =>
    obtain ho | ⟨hc, ho⟩ := h.port
    · exact ho
    · exact ho.trans (hs (hc ▸ ht))
  | illegal w why _ _ _ _ _ he => subst he; simp at ht
  | command w i _ _ ho _ _ h =>
    obtain ⟨hc, -⟩ | ⟨rfl, -⟩ := h.answers
    · simp [hc] at ht
    · exact ho

/-- `RSP[7:5] = 0` (R67). -/
theorem rspWord_toNat_lt (st : Status) (m : Bool) : (rspWord st m).toNat < 2 ^ 5 := by
  cases st <;> cases m <;> decide

/-- `MATCH` is `RSP[4]` (R67). -/
theorem rspWord_getLsbD_four (st : Status) (m : Bool) : (rspWord st m).getLsbD 4 = m := by
  cases st <;> cases m <;> decide

/-! ### The clamp -/

@[simp] theorem clamp_clamp (r : U128) : clamp (clamp r) = clamp r := by
  rw [clamp, clamp, BitVec.and_assoc, BitVec.and_self]

theorem clamp_and_clampedBits (r : U128) : clamp r &&& clampedBits = 0#128 := by
  have hdisjoint : clampMask &&& clampedBits = 0#128 := by decide
  rw [clamp, BitVec.and_assoc, hdisjoint, BitVec.and_zero]

theorem clamp_toNat_lt (r : U128) : (clamp r).toNat < 2 ^ 124 := by
  rw [clamp, BitVec.toNat_and]
  exact lt_of_le_of_lt Nat.and_le_right (by decide)

/-- A value whose clamped bits are zero is its own clamp (R22). -/
theorem clamp_eq_self {r : U128} (h : r &&& clampedBits = 0#128) : clamp r = r := by
  have hcover : clampMask ||| clampedBits = BitVec.allOnes 128 := by decide
  calc clamp r = (r &&& clampMask) ||| (r &&& clampedBits) := by rw [h, BitVec.or_zero, clamp]
    _ = r := by rw [← BitVec.and_or_distrib_left, hcover, BitVec.and_allOnes]

theorem toNat_lt_of_clamped {r : U128} (h : r &&& clampedBits = 0#128) : r.toNat < 2 ^ 124 :=
  clamp_eq_self h ▸ clamp_toNat_lt r

/-! ### What every step keeps of the registers -/

/-- A context's `R` stays clamped (R22): only `INIT` writes it, with a clamped value. -/
theorem step_keeps_clamped {s t : State} (h : step s = .next t)
    (hs : s.valid = true → s.regR &&& clampedBits = 0#128) : t.valid = true → t.regR &&& clampedBits = 0#128 := by
  intro ht
  cases step_context h with
  | reset _ hst =>
    obtain ⟨hv, -⟩ := hst
    exact absurd (hv.symm.trans ht) nofun
  | load w _ _ hst =>
    obtain ⟨-, hr, -⟩ := hst
    rw [hr, State.loadContext_regR, keyR, clamp_and_clampedBits]
  | fold w len _ _ hv hst =>
    obtain ⟨-, hr, -⟩ := hst
    exact hr ▸ hs hv
  | same hst =>
    obtain ⟨hv, hr, -⟩ := hst
    exact hr ▸ hs (hv ▸ ht)

/-- `BUF` keeps `BUFLEN` bytes (R25): what `UPDATE` leaves in it is shorter than a block. -/
theorem step_keeps_bufLen {s t : State} (h : step s = .next t) (hs : s.buf.length = s.bufLen.toNat) :
    t.buf.length = t.bufLen.toNat := by
  cases step_context h with
  | reset _ hst =>
    obtain ⟨-, -, -, -, hb, hl⟩ := hst
    rw [hb, hl, State.assertReset_buf, State.assertReset_bufLen, List.length_map, List.length_range]
  | load w _ _ hst =>
    obtain ⟨-, -, -, -, hb, hl⟩ := hst
    rw [hb, hl]
    rfl
  | fold w len _ _ _ hst =>
    obtain ⟨-, -, -, -, hb, hl⟩ := hst
    rw [hb, hl, State.absorbBytes, State.writeAccumulator_buf, State.writeAccumulator_bufLen, absorbAll_snd_length,
      BitVec.toNat_ofNat, Nat.mod_mod]
  | same hst =>
    obtain ⟨-, -, -, -, hb, hl⟩ := hst
    rw [hb, hl, hs]

/-! ### The loss of a reset -/

theorem resetLoss_idle {s : State} (h : s.cmd = none) : s.resetLoss = 0 := by
  simp only [State.resetLoss, h]

theorem resetLoss_le {s : State} {w : Word} (h : s.cmd = some w) : s.resetLoss ≤ payloadLength w := by
  simp only [State.resetLoss, h]
  exact min_le_right _ _

end Sys2Proof.Machine

namespace Sys2Proof.Safety

open Sys2Proof.Machine

/-! ### The context of a key and a message -/

theorem keyR_toNat (key : KeyBus) : (keyR key).toNat = keyMultiplier key := by
  rw [keyR, clamp, BitVec.toNat_and, keyRHalf, BitVec.extractLsb'_toNat, Nat.shiftRight_zero]
  rfl

theorem keyS_toNat (key : KeyBus) : (keyS key).toNat = keyMask key := by
  rw [keyS, keySHalf, BitVec.extractLsb'_toNat, Nat.shiftRight_eq_div_pow, keyMask]
  have := key.isLt
  omega

theorem Represents.of_sameContext {s t : State} {key : KeyBus} {msg : List Byte} (h : Represents s key msg)
    (hst : SameContext s t) : Represents t key msg := by
  obtain ⟨hv, hr, hm, hh, hb, hl⟩ := hst
  simpa only [Represents, hv, hr, hm, hh, hb, hl] using h

/-- The load of `INIT` begins the empty message (R26). -/
theorem represents_loadContext (s : State) (key : KeyBus) : Represents (s.loadContext (keyR key) (keyS key)) key [] :=
  ⟨rfl, keyR_toNat key, keyS_toNat key, rfl, rfl, rfl⟩

/-- Absorbing more bytes into the context of a message is absorbing the longer message from the start (R114). -/
theorem Represents.absorbAll_eq {s : State} {key : KeyBus} {msg : List Byte} (h : Represents s key msg)
    (x : List Byte) : absorbAll s.regR s.regH (s.buf ++ x) = absorbAll s.regR feZero (msg ++ x) := by
  obtain ⟨-, hr, -, hh, hb, -⟩ := h
  have hacc : (absorbAll s.regR feZero msg).1 = s.regH := by
    apply Fin.ext
    rw [absorbAll_fst_val, hr, hh, feZero_val, macAccumulator]
  have htail : (absorbAll s.regR feZero msg).2 = s.buf := by
    rw [absorbAll_snd, hb, tailBytes]
  rw [absorbAll_append s.regR feZero, hacc, htail]

/-- The fold of `UPDATE` appends its bytes to the message (R114). -/
theorem Represents.absorbBytes {s : State} {key : KeyBus} {msg : List Byte} (h : Represents s key msg)
    (x : List Byte) : Represents (s.absorbBytes x) key (msg ++ x) := by
  have hall := h.absorbAll_eq x
  obtain ⟨hv, hr, hm, -, -, -⟩ := h
  rw [State.absorbBytes, hall]
  refine ⟨hv, hr, hm, ?_, ?_, ?_⟩
  · rw [State.writeAccumulator_regH, absorbAll_fst_val, hr, feZero_val, macAccumulator]
  · rw [State.writeAccumulator_buf, absorbAll_snd, tailBytes]
  · rw [State.writeAccumulator_bufLen, absorbAll_snd_length, BitVec.toNat_ofNat, Nat.mod_mod]

/-! ### States that agree but for registers without a context -/

section SameView

variable {s s' : State}

theorem SameView.refl (s : State) : SameView s s := by
  simp [SameView, SameContext, SameSurroundings]

/-- With a context, states of the same view are the same. -/
theorem SameView.eq_of_valid (h : SameView s s') (hv : s.valid = true) : s' = s := by
  obtain ⟨-, hctx, hcmd, hout, hkey, htag, hdin, hhost, hrec, hres⟩ := h
  obtain ⟨hv', hr, hm, hh, hb, hl⟩ := hctx hv
  cases s; cases s'
  simp_all

theorem SameView.respond (h : SameView s s') (r : Response) : SameView (s.respond r) (s'.respond r) := by
  obtain ⟨hv, hctx, -, -, hrest⟩ := h
  exact ⟨hv, hctx, rfl, rfl, hrest⟩

theorem SameView.raise (h : SameView s s') (st : Status) : SameView (s.raise st) (s'.raise st) := h.respond _

theorem SameView.loadContext (h : SameView s s') (r mask : U128) :
    SameView (s.loadContext r mask) (s'.loadContext r mask) := by
  obtain ⟨-, -, hport⟩ := h
  exact ⟨rfl, fun _ => ⟨rfl, rfl, rfl, rfl, rfl, rfl⟩, hport⟩

theorem SameView.dinDrop (h : SameView s s') (n : Nat) : SameView (s.dinDrop n) (s'.dinDrop n) := by
  obtain ⟨hv, hctx, hcmd, hout, hkey, htag, hdin, hrest⟩ := h
  exact ⟨hv, hctx, hcmd, hout, hkey, htag, congrArg (List.drop n) hdin, hrest⟩

theorem SameView.supplyDin (h : SameView s s') (bytes : List Byte) :
    SameView (s.supplyDin bytes) (s'.supplyDin bytes) := by
  obtain ⟨hv, hctx, hcmd, hout, hkey, htag, hdin, hrest⟩ := h
  exact ⟨hv, hctx, hcmd, hout, hkey, htag, congrArg (· ++ bytes) hdin, hrest⟩

theorem SameView.hostRest (h : SameView s s') (rest : List HostAction) :
    SameView (s.hostRest rest) (s'.hostRest rest) := by
  obtain ⟨hv, hctx, hcmd, hout, hkey, htag, hdin, -, hrest⟩ := h
  exact ⟨hv, hctx, hcmd, hout, hkey, htag, hdin, rfl, hrest⟩

theorem SameView.presentCommand (h : SameView s s') (w : Word) (key : KeyBus) (tagIn : U128) :
    SameView (s.presentCommand w key tagIn) (s'.presentCommand w key tagIn) := by
  obtain ⟨hv, hctx, -, hout, -, -, hrest⟩ := h
  exact ⟨hv, hctx, rfl, hout, rfl, rfl, hrest⟩

theorem SameView.takeResponse (h : SameView s s') (r : Response) :
    SameView (s.takeResponse r) (s'.takeResponse r) := by
  obtain ⟨hv, hctx, hcmd, -, hkey, htag, hdin, hhost, hrec, hres⟩ := h
  exact ⟨hv, hctx, hcmd, rfl, hkey, htag, hdin, hhost, congrArg (· ++ [r]) hrec, hres⟩

/-- A reset loses the same bytes: the free value reads no register without a context. -/
theorem SameView.resetLoss_eq (h : SameView s s') (hv : s.valid = false) : s'.resetLoss = s.resetLoss := by
  obtain ⟨hvv, -, hcmd, hout, hkey, htag, hdin, -, -, hres⟩ := h
  simp only [State.resetLoss, State.readableRegisters, State.ports, ← hvv, hv, hcmd, hout, hkey, htag, hdin, hres]
  rfl

theorem SameView.assertReset (h : SameView s s') (hv : s.valid = false) :
    SameView s.assertReset s'.assertReset := by
  have hloss := h.resetLoss_eq hv
  obtain ⟨-, -, -, -, hkey, htag, hdin, hhost, hrec, hres⟩ := h
  refine ⟨rfl, nofun, rfl, rfl, hkey, htag, ?_, hhost, hrec, congrArg (· + 1) hres⟩
  rw [State.assertReset_din, State.assertReset_din, hdin, hloss]

theorem SameView.hostTurn (h : SameView s s') (ht : HostTurn s) : HostTurn s' := by
  obtain ⟨-, -, hcmd, hout, -, -, hdin, hhost, -⟩ := h
  simpa only [HostTurn, State.resetNext, State.starved, State.dinShort, hcmd, hout, hdin, hhost] using ht

theorem SameView.runs (h : SameView s s') {w : Word} (hw : Runs s w) : Runs s' w := by
  obtain ⟨-, -, hcmd, hout, -, -, hdin, hhost, -⟩ := h
  simpa only [Runs, State.resetNext, State.starved, State.dinShort, hcmd, hout, hdin, hhost] using hw

/-- The host moves alike in states of the same view without a context. -/
theorem SameView.hostMove (h : SameView s s') (hv : s.valid = false) {t : State} (ht : HostCase s t) :
    ∃ t', hostMove s' = .next t' ∧ SameView t t' := by
  have ⟨_, _, hcmd, hout, _, _, _, hhost, _⟩ := h
  cases ht with
  | done hh ht => exact ⟨_, hostMove_done (hhost.trans hh), ht ▸ h⟩
  | reset rest hh ht => exact ⟨_, hostMove_reset (hhost.trans hh), ht ▸ (h.assertReset hv).hostRest rest⟩
  | wait rest hh ht => exact ⟨_, hostMove_wait (hhost.trans hh), ht ▸ h.hostRest rest⟩
  | supply bytes rest hh ht =>
    exact ⟨_, hostMove_supply (hhost.trans hh), ht ▸ (h.supplyDin bytes).hostRest rest⟩
  | takeNothing skip rest hh ho ht =>
    exact ⟨_, hostMove_takeNothing (hhost.trans hh) (hout.trans ho), ht ▸ h⟩
  | take r skip rest hh ho ht =>
    exact ⟨_, hostMove_take (hhost.trans hh) (hout.trans ho), ht ▸ (h.takeResponse r).hostRest _⟩
  | present w key tagIn rest hh hc ho ht =>
    exact ⟨_, hostMove_present (hhost.trans hh) (hcmd.trans hc) (hout.trans ho),
      ht ▸ (h.presentCommand w key tagIn).hostRest rest⟩

/-- A command does alike in states of the same view without a context: `INIT` reads the bus alone, the others raise. -/
theorem SameView.exec (h : SameView s s') (hv : s.valid = false) {i : Instr} {t : State} (ht : ExecCase s t i) :
    ∃ t', exec i s' = .next t' ∧ SameView t t' := by
  have ⟨hvv, _, _, _, hkey, _, hdin, _⟩ := h
  have hv' : s'.valid = false := hvv ▸ hv
  cases ht with
  | initBadSize klen hk ht => exact ⟨_, (execInit_eq klen s').trans (by rw [if_neg hk]), ht ▸ h.raise _⟩
  | initLoad ht =>
    exact ⟨_, (execInit_eq 256 s').trans (by rw [if_pos rfl, hkey]), ht ▸ (h.loadContext _ _).respond _⟩
  | updateWait len hl ht => exact ⟨_, (execUpdate_eq len s').trans (by rw [hdin, if_pos hl]), ht ▸ h⟩
  | updateNoContext len hl _ ht =>
    exact ⟨_, (execUpdate_eq len s').trans (by rw [hdin, if_neg hl.not_gt, if_pos hv']), ht ▸ (h.dinDrop len).raise _⟩
  | updateFold len _ hv1 _ => exact absurd (hv.symm.trans hv1) nofun
  | finalNoContext _ ht => exact ⟨_, (execFinal_eq s').trans (by rw [if_pos hv']), ht ▸ h.raise _⟩
  | finalTag hv1 _ => exact absurd (hv.symm.trans hv1) nofun
  | verifyNoContext _ ht => exact ⟨_, (execVerify_eq s').trans (by rw [if_pos hv']), ht ▸ h.raise _⟩
  | verifyVerdict hv1 _ => exact absurd (hv.symm.trans hv1) nofun

end SameView

end Sys2Proof.Safety

namespace Sys2Proof.Proofs

open Sys2Proof.Machine Sys2Proof.Safety

/-! ### The invariants of every step -/

/-- Settles O55, clause by clause. -/
theorem everyStepKeepsTheInvariant : Obligations.EveryStepKeepsTheInvariant := by
  intro s t hs h
  obtain ⟨hclamp, hlen, hport⟩ := hs
  exact ⟨step_keeps_clamped h hclamp, step_keeps_bufLen h hlen, step_keeps_oneCommand h hport⟩

/-- Settles O56: a load begins the empty message, a fold appends to the message. -/
theorem contextIsAlwaysOfSomeMessage : Obligations.ContextIsAlwaysOfSomeMessage := by
  intro s t hs h ht
  cases step_context h with
  | reset _ hst =>
    obtain ⟨hv, -⟩ := hst
    exact absurd (hv.symm.trans ht) nofun
  | load w _ _ hst => exact ⟨s.key, [], (represents_loadContext s s.key).of_sameContext hst⟩
  | fold w len _ _ hv hst =>
    obtain ⟨key, msg, hrep⟩ := hs hv
    exact ⟨key, msg ++ s.din.take len, (hrep.absorbBytes _).of_sameContext hst⟩
  | same hst =>
    have ⟨hv, _⟩ := hst
    obtain ⟨key, msg, hrep⟩ := hs (hv ▸ ht)
    exact ⟨key, msg, hrep.of_sameContext hst⟩

/-- Settles O60: with a context the two states are one; without, the step of one is matched by the other. -/
theorem unspecifiedRegistersAreNeverRead : Obligations.UnspecifiedRegistersAreNeverRead := by
  intro s s' t hs h
  cases hv : s.valid with
  | true => exact ⟨t, (hs.eq_of_valid hv).symm ▸ h, SameView.refl t⟩
  | false =>
    cases step_cases h with
    | host hturn hcase => exact step_of_hostTurn (hs.hostTurn hturn) ▸ hs.hostMove hv hcase
    | illegal w why hr hc ho hst hd ht =>
      have hstep := step_of_runs (hs.runs ⟨hr, hc, ho, hst⟩)
      exact ⟨_, hstep.trans (runCommand_illegal hd s'), ht ▸ hs.raise _⟩
    | command w i hr hc ho hst hd hcase =>
      have hstep := step_of_runs (hs.runs ⟨hr, hc, ho, hst⟩)
      rw [hstep, runCommand_legal hd]
      exact hs.exec hv hcase

/-! ### Commands, reset and the registers they write -/

/-- Settles O9: an illegal word raises, and a legal one answers, since its payload is there. -/
theorem everyCommandGivesOneResponse : Obligations.EveryCommandGivesOneResponse := by
  intro s w hw
  have ⟨_, _, _, hstarved⟩ := hw
  rw [step_of_runs hw]
  cases hd : decode w with
  | illegal why =>
    exact ⟨_, _, runCommand_illegal hd s, rfl, rfl, rfl, rspWord_toNat_lt _ _,
      fun h => absurd h (by decide), fun h => absurd rfl h⟩
  | legal i =>
    obtain ⟨t, ht⟩ := exec_next i s
    obtain ⟨hcmd, hrec, st, m, x, hout, hm, hx⟩ | ⟨-, len, rfl, hlen⟩ := (exec_cases ht).answers
    · refine ⟨t, _, (runCommand_legal hd s).trans ht, hcmd, hout, hrec, rspWord_toNat_lt st m, ?_, ?_⟩
      · intro h
        obtain ⟨rfl, hv⟩ := hm (rspWord_getLsbD_four st m ▸ h)
        exact ⟨(encode_of_decode hd).symm, hv⟩
      · intro h
        obtain ⟨rfl, hv⟩ := hx h
        exact ⟨(encode_of_decode hd).symm, hv⟩
    · exact absurd hlen (le_din_of_not_starved hd hstarved).not_gt

/-- Settles O14: a reset that stands next is the host's move. -/
theorem resetClearsValidAndAbandons : Obligations.ResetClearsValidAndAbandons := by
  intro s rest hh
  have hstep : step s = .next (s.assertReset.hostRest rest) :=
    (step_of_hostTurn (.inl (resetNext_of_host hh))).trans (hostMove_reset hh)
  exact ⟨_, s.resetLoss, hstep, rfl, rfl, rfl, rfl, rfl, rfl, rfl, rfl, resetLoss_idle, fun _ => resetLoss_le⟩

/-- Settles O16, by what a step can do to the registers. -/
theorem validChangesOnlyByInitAndReset : Obligations.ValidChangesOnlyByInitAndReset := by
  intro s t h
  cases step_context h with
  | reset hr hst =>
    obtain ⟨hv, -⟩ := hst
    simp [hr, hv]
  | load w hw hd hst =>
    obtain ⟨hv, -⟩ := hst
    exact ⟨fun _ ht => absurd (hv.symm.trans ht) nofun, fun _ _ => runs_init hw hd⟩
  | fold w len _ _ hvs hst =>
    obtain ⟨hv, -⟩ := hst
    exact ⟨fun _ ht => absurd (hvs.symm.trans (hv.symm.trans ht)) nofun,
      fun hs _ => absurd (hvs.symm.trans hs) nofun⟩
  | same hst =>
    obtain ⟨hv, -⟩ := hst
    exact ⟨fun hs ht => absurd (hs.symm.trans (hv.symm.trans ht)) nofun,
      fun hs ht => absurd (hs.symm.trans (hv.symm.trans ht)) nofun⟩

/-- Settles O17, by what a step can do to the registers. -/
theorem onlyInitAndUpdateWriteRegisters : Obligations.OnlyInitAndUpdateWriteRegisters := by
  intro s t h hreset
  cases step_context h with
  | reset hr _ => exact absurd (hr.symm.trans hreset) nofun
  | load w hw hd _ => exact ⟨fun _ => runs_init hw hd, fun _ => .inl (runs_init hw hd)⟩
  | fold w len hw hd hv hst =>
    obtain ⟨-, hr, hm, -⟩ := hst
    exact ⟨fun hne => absurd hne (by simp [hr, hm, State.absorbBytes]), fun _ => .inr ⟨w, len, hw, hd, hv⟩⟩
  | same hst =>
    obtain ⟨-, hr, hm, hh, hb, hl⟩ := hst
    simp [hr, hm, hh, hb, hl]

/-! ### The clamp and the bounds -/

/-- Settles O24: the mask and the clamped bits are disjoint. -/
theorem clampIsIdempotent : Obligations.ClampIsIdempotent :=
  fun rh => ⟨clamp_clamp rh, clamp_and_clampedBits rh, clamp_toNat_lt rh⟩

/-- Settles O52: a clamped `R` and the canonical `H` bound each product and sum. -/
theorem arithmeticBounds : Obligations.ArithmeticBounds := by
  intro s c hs hv hc
  obtain ⟨hclamp, -, -⟩ := hs
  have hr : s.regR.toNat < 2 ^ 124 := toNat_lt_of_clamped (hclamp hv)
  have hh := fieldElem_lt s.regH
  have hsum := fieldElem_lt (feAdd s.regH (toField c))
  refine ⟨hr, by omega, ?_, ?_⟩
  · calc (feAdd s.regH (toField c)).val * s.regR.toNat < (2 ^ 130 - 5) * 2 ^ 124 :=
        Nat.mul_lt_mul'' hsum hr
      _ < 2 ^ 254 := by norm_num
  · intro x
    have hx := (trunc128 x).isLt
    have hmask := s.regS.isLt
    omega

/-! ### The step, the host and reset -/

/-- Settles O7. -/
theorem stepRunsTheDecodedCommand : Obligations.StepRunsTheDecodedCommand :=
  fun s _ _ hw hd => (step_of_runs hw).trans (runCommand_legal hd s)

/-- Settles O12: the idle port gives the host its turn. -/
theorem hostMovesOnIdlePort : Obligations.HostMovesOnIdlePort := by
  intro s rest hc
  rw [step_of_hostTurn (.inr (.inl hc))]
  refine ⟨fun w key tagIn ho hh => hostMove_present hh hc ho, fun bytes hh => hostMove_supply hh, ?_, hostMove_wait⟩
  intro r skip ho hh
  rw [hostMove_take hh ho, actionsAfter_eq]
  rfl

/-- Settles O20. -/
theorem initLoadsTheContext : Obligations.InitLoadsTheContext :=
  fun s => (execInit_eq 256 s).trans (by rw [if_pos rfl]; rfl)

/-- Settles O42: both only respond. -/
theorem finalAndVerifyWriteNoRegister : Obligations.FinalAndVerifyWriteNoRegister := by
  rintro s t (h | h)
  · cases exec_cases h with
    | finalNoContext _ ht => exact ht ▸ respond_frame s _
    | finalTag _ ht => exact ht ▸ respond_frame s _
  · cases exec_cases h with
    | verifyNoContext _ ht => exact ht ▸ respond_frame s _
    | verifyVerdict _ ht => exact ht ▸ respond_frame s _

/-- Settles O53: the host of the reset state has nothing to do. -/
theorem resetStateIsIdle : Obligations.ResetStateIsIdle :=
  ⟨rfl, rfl, rfl, (step_of_hostTurn (.inr (.inl rfl))).trans (hostMove_done rfl)⟩

/-- Settles O54: there is no context and no command, and `BUF` is empty. -/
theorem invariantAfterReset : Obligations.InvariantAfterReset := ⟨nofun, rfl, nofun⟩

end Sys2Proof.Proofs

/-!
Proofs for the family of the buses and `DIN`: the byte view of a bus, the frames of `UPDATE` and `INIT`, and the wait for
bytes on `DIN`.
-/

namespace Sys2Proof.Machine

/-! ### The byte view of a bus -/

/-- Byte `i` of a bus written out as bytes stands on its bits `8i+7 : 8i` (R41). -/
theorem tole_getD_eq_extractLsb' {w n i : Nat} (bus : BitVec w) (h : i < n) :
    (tole n bus.toNat).getD i 0 = bus.extractLsb' (8 * i) 8 := by
  rw [tole_getD n _ i h, BitVec.extractLsb', Nat.shiftRight_eq_div_pow]

/-- `le` of the first 16 key bytes is the `r` half (R42). -/
theorem le_keyBytes_take (key : KeyBus) : le ((keyBytes key).take 16) = (keyRHalf key).toNat := by
  rw [keyBytes_take, le_tole_mod, keyRHalf, BitVec.extractLsb'_toNat, Nat.shiftRight_zero]

/-- `le` of the last 16 key bytes is the `s` half (R42). -/
theorem le_keyBytes_drop (key : KeyBus) : le ((keyBytes key).drop 16) = (keySHalf key).toNat := by
  rw [keyBytes_drop, le_tole_mod, keySHalf, BitVec.extractLsb'_toNat, Nat.shiftRight_eq_div_pow]

/-! ### An `UPDATE` whose bytes are not all there -/

/-- An `UPDATE` waits exactly while `DIN` holds fewer than `LEN` bytes (R45, R191). -/
theorem starved_update_iff {s : State} {w : Word} {len : Nat} (hd : decode w = .legal (.update len)) :
    s.starved w = true ↔ s.din.length < len := by
  rw [State.starved, State.dinShort, payloadLength_update hd, decide_eq_true_iff]

end Sys2Proof.Machine

namespace Sys2Proof.Proofs

open Sys2Proof.Machine Sys2Proof.Safety

/-! ### The frames of `UPDATE` and `INIT`, and the wait -/

/-- Settles O43: it waits, discards its bytes, or folds them. -/
theorem updateFrame : Obligations.UpdateFrame := by
  intro s t len h
  cases exec_cases h with
  | updateWait _ hlen ht =>
    subst ht
    simp [SameContext, hlen]
  | updateNoContext _ hlen _ ht =>
    subst ht
    simp [SameContext, hlen.not_gt]
  | updateFold _ hlen hv ht =>
    subst ht
    simp [hv, hlen.not_gt]

/-- Settles O44: a load writes only the registers, and what it writes comes from `KEY` alone. -/
theorem initFrame : Obligations.InitFrame := by
  constructor
  · intro s t klen h
    cases exec_cases h with
    | initBadSize _ _ ht =>
      obtain ⟨-, hsur⟩ := respond_frame s (errorResponse .invalidKeySize)
      exact ht ▸ hsur
    | initLoad ht =>
      obtain ⟨-, hsur⟩ := respond_frame (s.loadContext (keyR s.key) (keyS s.key)) (okResponse false 0#128)
      exact ht ▸ hsur
  · intro s s' t t' hkey h h'
    cases exec_cases h with
    | initBadSize _ hk _ => exact absurd rfl hk
    | initLoad ht =>
      cases exec_cases h' with
      | initBadSize _ hk _ => exact absurd rfl hk
      | initLoad ht' =>
        subst ht ht'
        simp [SameContext, hkey]

/-- Settles O51. -/
theorem busesCarryLittleEndianBytes : Obligations.BusesCarryLittleEndianBytes :=
  fun key tagIn => ⟨fun _ hi => tole_getD_eq_extractLsb' key hi, fun _ hi => tole_getD_eq_extractLsb' tagIn hi,
    le_keyBytes_take key, le_keyBytes_drop key⟩

/-- Settles O13: while the `UPDATE` waits, it is the host's turn. -/
theorem starvedUpdateWaits : Obligations.StarvedUpdateWaits := by
  intro s w len hc hd ho hlen
  have hstep : step s = hostMove s := step_of_hostTurn (.inr (.inr ⟨w, hc, ho, (starved_update_iff hd).mpr hlen⟩))
  refine ⟨(execUpdate_eq len s).trans (by rw [if_pos hlen]), fun hh => hstep.trans (hostMove_done hh), ?_⟩
  intro bytes rest hh
  exact hstep.trans (hostMove_supply hh)

end Sys2Proof.Proofs

/-!
Proofs for the family of the encoding: the decoder and the encoder are inverse, the words of the opcode table, and the run
of a host that does the sequence of `MAC`.
-/

namespace Sys2Proof

open Laws.EncodedFields

/-! ### Decoding and encoding -/

theorem wellFormed_init {klen : Nat} : (Instr.init klen).WellFormed ↔ klen < 2 ^ 16 := decide_eq_true_iff

theorem wellFormed_update {len : Nat} : (Instr.update len).WellFormed ↔ len < 2 ^ 16 :=
  decide_eq_true_iff.trans Nat.lt_succ_iff.symm

/-- The word of a well-formed command decodes to it: its fields are the command's, and the argument fits `ARG`. -/
theorem decode_encode {i : Instr} (h : i.WellFormed) : decode (encode i) = .legal i := by
  cases i with
  | init klen =>
    obtain ⟨hop, hrsv, harg⟩ := Laws.EncodedFields.init klen
    simpa [decode, hop, hrsv, harg, opcode, argument] using wellFormed_init.mp h
  | update len =>
    obtain ⟨hop, hrsv, harg⟩ := Laws.EncodedFields.update len
    simpa [decode, hop, hrsv, harg, opcode, argument] using wellFormed_update.mp h
  | final =>
    obtain ⟨hop, hrsv, harg⟩ := Laws.EncodedFields.final
    simp [decode, hop, hrsv, harg, opcode, argument]
  | verify =>
    obtain ⟨hop, hrsv, harg⟩ := Laws.EncodedFields.verify
    simp [decode, hop, hrsv, harg, opcode, argument]

/-- The argument of a decoded command is the 16-bit `ARG`. -/
theorem wellFormed_of_decode {w : Word} {i : Instr} (h : decode w = .legal i) : i.WellFormed := by
  unfold decode at h
  split_ifs at h <;> cases h
  · exact wellFormed_init.mpr (argField w).isLt
  · exact wellFormed_update.mpr (argField w).isLt
  · rfl
  · rfl

/-- The legal words are the words of the well-formed commands, each decoded as its own (R70). -/
theorem decode_eq_legal_iff {w : Word} {i : Instr} : decode w = .legal i ↔ i.WellFormed ∧ encode i = w :=
  ⟨fun h => ⟨wellFormed_of_decode h, Machine.encode_of_decode h⟩, fun ⟨hwf, hw⟩ => hw ▸ decode_encode hwf⟩

/-! ### The words of the opcode table -/

/-- `ARG` is or'ed into the word of its `OP` (R60). -/
theorem encodeFields_eq_or (op : BitVec 4) (arg : BitVec 16) :
    encodeFields op arg = (op ++ 0#28) ||| arg.setWidth 32 := by
  apply BitVec.eq_of_toNat_eq
  have harg : arg.toNat < 2 ^ 28 := by have := arg.isLt; omega
  rw [encodeFields_toNat, BitVec.toNat_or, BitVec.toNat_append, BitVec.toNat_setWidth_of_le (by decide),
    BitVec.toNat_ofNat, Nat.zero_mod, Nat.or_zero, ← Nat.shiftLeft_add_eq_or_of_lt harg, Nat.shiftLeft_eq]

/-- The mask `0xFFFF0000` clears `ARG` and keeps `OP` and `RSV`. -/
theorem and_highMask_toNat (w : Word) : (w &&& 0xFFFF0000#32).toNat = w.toNat / 2 ^ 16 * 2 ^ 16 := by
  have hmask : 0xFFFF0000#32 = BitVec.allOnes 32 <<< 16 := by decide
  have := w.isLt
  rw [hmask, ← BitVec.shiftLeft_ushiftRight, BitVec.toNat_shiftLeft, BitVec.toNat_ushiftRight,
    Nat.shiftLeft_eq, Nat.shiftRight_eq_div_pow]
  omega

/-- The words whose `RSV` is zero are those of match `OP` and mask `0xFFFF0000`, with their low 16 bits as `ARG`. -/
theorem encodeFields_argField_eq_iff (w : Word) (op : BitVec 4) :
    encodeFields op (argField w) = w ↔ w &&& 0xFFFF0000#32 = op ++ 0#28 := by
  rw [BitVec.toNat_eq, BitVec.toNat_eq, encodeFields_toNat, argField_toNat, and_highMask_toNat, BitVec.toNat_append,
    BitVec.toNat_ofNat, Nat.zero_mod, Nat.or_zero, Nat.shiftLeft_eq]
  omega

end Sys2Proof

namespace Sys2Proof.Machine

open Sys2Proof.Safety

/-! ### Runs of a host that waits for each response -/

theorem runSteps_succ {s t : State} (h : step s = .next t) (k : Nat) : runSteps (k + 1) s = runSteps k t := by
  simp only [runSteps, h]

theorem runSteps_add {s t : State} {j : Nat} (h : runSteps j s = some t) (k : Nat) :
    runSteps (j + k) s = runSteps k t := by
  induction j generalizing s with
  | zero => rw [Nat.zero_add, Option.some.inj h]
  | succ j ih =>
    rw [Nat.succ_add]
    cases hs : step s with
    | next u =>
      rw [runSteps_succ hs] at h ⊢
      exact ih h
    | fault f => exact absurd hs (step_no_fault s f)
    | refused r => simp [runSteps, hs] at h

/-- Only an `UPDATE` has a payload (R69). -/
theorem payloadLength_of_not_update {w : Word} {i : Instr} (hd : decode w = .legal i) (hi : ∀ len, i ≠ .update len) :
    payloadLength w = 0 := by
  cases i with
  | update len => exact absurd rfl (hi len)
  | _ => simp only [payloadLength, hd]

/-- A command whose payload is on `DIN` does not wait (R191). -/
theorem not_starved {s : State} {w : Word} (h : payloadLength w ≤ s.din.length) : s.starved w = false :=
  decide_eq_false h.not_gt

section Exchange

variable {s u : State} {w : Word} {i : Instr} {key : KeyBus} {tagIn : U128} {skip : Nat} {rest : List HostAction}
  {r : Response}

/-- The state in which a command that an idle core was given is performed, the host about to take the response. -/
def State.asked (s : State) (w : Word) (key : KeyBus) (tagIn : U128) (skip : Nat) (rest : List HostAction) : State :=
  (s.presentCommand w key tagIn).hostRest (.take skip :: rest)

/-- A command presented to an idle core, its payload on `DIN`, is performed in the second step. -/
theorem runSteps_perform (hc : s.cmd = none) (ho : s.out = none)
    (hh : s.host = .present w key tagIn :: .take skip :: rest) (hd : decode w = .legal i)
    (hp : payloadLength w ≤ s.din.length) (hx : exec i (s.asked w key tagIn skip rest) = .next u) :
    runSteps 2 s = some u := by
  have hpresent : step s = .next (s.asked w key tagIn skip rest) :=
    (step_of_hostTurn (.inr (.inl hc))).trans (hostMove_present hh hc ho)
  have hruns : Runs (s.asked w key tagIn skip rest) w := ⟨rfl, rfl, ho, not_starved hp⟩
  rw [runSteps_succ hpresent, runSteps_succ ((step_of_runs hruns).trans ((runCommand_legal hd _).trans hx))]
  rfl

/-- The response is taken in the third step, and the host goes on. -/
theorem runSteps_exchange (hc : s.cmd = none) (ho : s.out = none)
    (hh : s.host = .present w key tagIn :: .take skip :: rest) (hd : decode w = .legal i)
    (hp : payloadLength w ≤ s.din.length) (hx : exec i (s.asked w key tagIn skip rest) = .next (u.respond r))
    (hu : u.host = .take skip :: rest) :
    runSteps 3 s = some (((u.respond r).takeResponse r).hostRest (actionsAfter r skip rest)) := by
  have htake : step (u.respond r) = .next (((u.respond r).takeResponse r).hostRest (actionsAfter r skip rest)) :=
    (step_of_hostTurn (.inr (.inl rfl))).trans (hostMove_take hu rfl)
  rw [runSteps_add (j := 2) (runSteps_perform hc ho hh hd hp hx) 1, runSteps_succ htake]
  rfl

end Exchange

/-! ### `INIT`, `UPDATE` and `FINAL` that end with `OK` -/

theorem exec_init_load (s : State) :
    exec (.init 256) s = .next ((s.loadContext (keyR s.key) (keyS s.key)).respond (okResponse false 0#128)) :=
  execInit_eq 256 s

/-- With its bytes `x` in front of `rest` on `DIN`, and a context, `UPDATE` folds them and leaves `rest`. -/
theorem exec_update_fold {s : State} {x rest : List Byte} (hdin : s.din = x ++ rest) (hv : s.valid = true) :
    exec (.update x.length) s =
      .next ({ s.absorbBytes x with din := rest }.respond (okResponse false 0#128)) := by
  have hlen : ¬ s.din.length < x.length := by simp [hdin]
  refine (execUpdate_eq x.length s).trans ?_
  rw [if_neg hlen, if_neg (by simp [hv]), State.dinDrop, hdin, List.drop_left, List.take_left]
  rfl

theorem exec_final_tag {s : State} (hv : s.valid = true) :
    exec .final s = .next (s.respond (okResponse false (u128OfBytes s.tag))) :=
  (execFinal_eq s).trans (by rw [if_neg (by simp [hv])])

/-! ### The chunks of a message -/

theorem chunksUpTo_flatten (fuel : Nat) (msg : List Byte) (h : msg.length ≤ fuel) :
    (chunksUpTo fuel msg).flatten = msg := by
  induction fuel generalizing msg with
  | zero => rw [List.eq_nil_of_length_eq_zero (Nat.le_zero.mp h)]; rfl
  | succ fuel ih =>
    unfold chunksUpTo
    split
    case isTrue hnil => rw [List.isEmpty_iff.mp hnil, List.flatten_nil]
    case isFalse =>
      have hdrop : (msg.drop Config.maxLen).length ≤ fuel := by
        rw [List.length_drop, Config.maxLen]
        omega
      rw [List.flatten_cons, ih _ hdrop, List.take_append_drop]

/-- The chunks are the message, in order (R150). -/
theorem macChunks_flatten (msg : List Byte) : (macChunks msg).flatten = msg := chunksUpTo_flatten _ msg le_rfl

theorem chunksUpTo_length_le (fuel : Nat) (msg : List Byte) : ∀ c ∈ chunksUpTo fuel msg, c.length ≤ Config.maxLen := by
  induction fuel generalizing msg with
  | zero => exact nofun
  | succ fuel ih =>
    unfold chunksUpTo
    split
    case isTrue => exact nofun
    case isFalse => exact List.forall_mem_cons.mpr ⟨List.length_take_le _ _, ih _⟩

/-- One `UPDATE` carries each chunk (R7). -/
theorem macChunks_length_le (msg : List Byte) : ∀ c ∈ macChunks msg, c.length ≤ Config.maxLen :=
  chunksUpTo_length_le _ msg

/-! ### The tag on `TAGOUT` -/

/-- What `FINAL` puts on `TAGOUT` is the tag value of the registers (R125, R131). -/
theorem u128OfBytes_tag (s : State) : u128OfBytes s.tag = BitVec.ofNat 128 (Safety.State.tagValue s) := by
  apply BitVec.eq_of_toNat_eq
  rw [u128OfBytes, State.tag, tag, le_tole_mod, BitVec.toNat_ofNat, BitVec.toNat_ofNat, u128Add_toNat, trunc128_toNat,
    feCanon_val, foldPending_val, Config.tagBytes, Nat.mod_mod]
  rfl

end Sys2Proof.Machine

namespace Sys2Proof.Safety

open Sys2Proof.Machine

/-- The tag value of a context is the one-shot tag of its key and message (R150). -/
theorem Represents.tagValue_eq {s : State} {key : KeyBus} {msg : List Byte} (h : Represents s key msg) :
    State.tagValue s = macValue key msg := by
  obtain ⟨-, hr, hm, hh, hb, hl⟩ := h
  rw [State.tagValue, macValue, hr, hm, hh, hb, hl, List.take_of_length_le (tailBytes_length msg).le]

/-! ### The sequence of `MAC`, exchange by exchange -/

/-- The core is idle with nothing on `DIN`, its slot holds the context of a key and a message, the host has been answered
`received` and is about to do `rest`. -/
structure InSession (key : KeyBus) (msg : List Byte) (received : List Response) (rest : List HostAction)
    (s : State) : Prop where
  cmd : s.cmd = none
  out : s.out = none
  din : s.din = []
  context : Represents s key msg
  received : s.received = received
  host : s.host = rest

section InSession

variable {s u : State} {w : Word} {i : Instr} {key busKey : KeyBus} {tagIn tagOut : U128} {skip : Nat}
  {msg chunk : List Byte} {received : List Response} {rest : List HostAction} {matched : Bool}

/-- A command answered with `OK` leaves the session in which its register writes leave the slot. -/
theorem inSession_exchange (hc : s.cmd = none) (ho : s.out = none)
    (hh : s.host = .present w busKey tagIn :: .take skip :: rest) (hd : decode w = .legal i)
    (hp : payloadLength w ≤ s.din.length)
    (hx : exec i (s.asked w busKey tagIn skip rest) = .next (u.respond (okResponse matched tagOut)))
    (hhost : u.host = .take skip :: rest) (hdin : u.din = []) (hrec : u.received = received)
    (hrep : Represents u key msg) :
    ∃ t, runSteps 3 s = some t ∧ InSession key msg (received ++ [okResponse matched tagOut]) rest t :=
  ⟨_, runSteps_exchange hc ho hh hd hp hx hhost, rfl, rfl, hdin, hrep, congrArg (· ++ [_]) hrec,
    actionsAfter_ok matched tagOut skip rest⟩

/-- `INIT` with the one key size there is begins a session. -/
theorem runSteps_initActions (hc : s.cmd = none) (ho : s.out = none) (hdin : s.din = [])
    (hh : s.host = initActions 256 key skip ++ rest) :
    ∃ t, runSteps 3 s = some t ∧ InSession key [] (s.received ++ [okResponse false 0#128]) rest t := by
  have hd : decode (encode (.init 256)) = .legal (.init 256) := decode_encode (by decide)
  have hp : payloadLength (encode (.init 256)) ≤ s.din.length :=
    (payloadLength_of_not_update hd nofun).trans_le (Nat.zero_le _)
  exact inSession_exchange (rest := rest) hc ho hh hd hp (exec_init_load _) rfl hdin rfl (represents_loadContext _ key)

/-- `UPDATE` with a chunk appends it to the message (R114). -/
theorem InSession.runSteps_updateActions (hlen : chunk.length ≤ Config.maxLen)
    (h : InSession key msg received (updateActions chunk ++ rest) s) :
    ∃ t, runSteps 4 s = some t ∧ InSession key (msg ++ chunk) (received ++ [okResponse false 0#128]) rest t := by
  obtain ⟨hc, ho, hdin, hrep, hrec, hh⟩ := h
  have ⟨hv, _⟩ := hrep
  have hsupply := (step_of_hostTurn (.inr (.inl hc))).trans (hostMove_supply hh)
  have hd : decode (encode (.update chunk.length)) = .legal (.update chunk.length) :=
    decode_encode (decide_eq_true hlen)
  have hstream : s.din ++ chunk = chunk ++ [] := by rw [hdin, List.nil_append, List.append_nil]
  have hp : payloadLength (encode (.update chunk.length)) ≤ (s.din ++ chunk).length := by
    rw [payloadLength_update hd, hstream, List.append_nil]
  rw [runSteps_succ hsupply]
  exact inSession_exchange (rest := rest) hc ho rfl hd hp (exec_update_fold hstream hv) rfl rfl hrec
    (hrep.absorbBytes chunk)

/-- `FINAL` answers the one-shot tag and keeps the context (R126, R150). -/
theorem InSession.runSteps_finalActions (h : InSession key msg received (finalActions ++ rest) s) :
    ∃ t, runSteps 3 s = some t ∧
      InSession key msg (received ++ [okResponse false (BitVec.ofNat 128 (macValue key msg))]) rest t := by
  obtain ⟨hc, ho, hdin, hrep, hrec, hh⟩ := h
  have ⟨hv, _⟩ := hrep
  have hd : decode (encode .final) = .legal .final := decode_encode rfl
  have hp : payloadLength (encode .final) ≤ s.din.length :=
    (payloadLength_of_not_update hd nofun).trans_le (Nat.zero_le _)
  rw [← hrep.tagValue_eq, ← u128OfBytes_tag]
  exact inSession_exchange (rest := rest) hc ho hh hd hp (exec_final_tag hv) rfl hdin hrec hrep

/-- The `UPDATE`s of chunks append them all. -/
theorem InSession.runSteps_chunks {chunks : List (List Byte)} (hlen : ∀ c ∈ chunks, c.length ≤ Config.maxLen)
    (h : InSession key msg received (chunks.flatMap updateActions ++ rest) s) :
    ∃ k t, runSteps k s = some t ∧ InSession key (msg ++ chunks.flatten)
      (received ++ List.replicate chunks.length (okResponse false 0#128)) rest t := by
  induction chunks generalizing s msg received with
  | nil => exact ⟨0, s, rfl, by simpa using h⟩
  | cons c cs ih =>
    obtain ⟨hc, hcs⟩ := List.forall_mem_cons.mp hlen
    rw [List.flatMap_cons, List.append_assoc] at h
    obtain ⟨u, hsu, hu⟩ := h.runSteps_updateActions hc
    obtain ⟨k, t, hut, ht⟩ := ih hcs hu
    refine ⟨4 + k, t, (runSteps_add hsu k).trans hut, ?_⟩
    simpa [List.replicate_succ] using ht

end InSession

end Sys2Proof.Safety

namespace Sys2Proof.Proofs

open Sys2Proof.Machine Sys2Proof.Safety

/-! ### The encoding -/

/-- Settles O2. -/
theorem decodeOfEncode : Obligations.DecodeOfEncode := fun _ => decode_encode

/-- Settles O3. -/
theorem encodeOfDecode : Obligations.EncodeOfDecode := fun _ _ => decode_eq_legal_iff.mp

/-- Settles O4: a word decodes to a command exactly when it is the command's word. -/
theorem decodeFollowsMatchAndMask : Obligations.DecodeFollowsMatchAndMask := by
  intro w
  have harg : BitVec.ofNat 16 (w.toNat % 65536) = argField w :=
    BitVec.eq_of_toNat_eq (by simp [argField_toNat])
  have hlt : w.toNat % 65536 < 2 ^ 16 := Nat.mod_lt _ (by decide)
  refine ⟨?_, ?_, ?_, ?_⟩ <;> rw [decode_eq_legal_iff]
  · rw [encode, harg, encodeFields_argField_eq_iff]
    exact and_iff_right (wellFormed_init.mpr hlt)
  · rw [encode, harg, encodeFields_argField_eq_iff]
    exact and_iff_right (wellFormed_update.mpr hlt)
  · exact (and_iff_right rfl).trans eq_comm
  · exact (and_iff_right rfl).trans eq_comm

/-- Settles O5, test by test of R70. -/
theorem illegalWordsAreThoseOfTheRule : Obligations.IllegalWordsAreThoseOfTheRule := by
  intro w
  rw [decode_eq_nat]
  split_ifs with hrsv h1 h2 h3 harg h4 harg
  · exact iff_of_true ⟨_, rfl⟩ (by omega)
  · exact iff_of_false nofun (by omega)
  · exact iff_of_false nofun (by omega)
  · exact iff_of_false nofun (by omega)
  · exact iff_of_true ⟨_, rfl⟩ (by omega)
  · exact iff_of_false nofun (by omega)
  · exact iff_of_true ⟨_, rfl⟩ (by omega)
  · exact iff_of_true ⟨_, rfl⟩ (by omega)

/-- Settles O58: the `INIT`, the `UPDATE`s and the `FINAL` of the sequence, one after the other. -/
theorem macProgramAnswersTheTag : Obligations.MacProgramAnswersTheTag := by
  intro s key msg hc ho hdin hh
  obtain ⟨u, hsu, hu⟩ := runSteps_initActions hc ho hdin hh
  obtain ⟨k, v, huv, hv⟩ := hu.runSteps_chunks (macChunks_length_le msg)
  rw [List.nil_append, macChunks_flatten] at hv
  obtain ⟨t, hvt, ht⟩ := InSession.runSteps_finalActions (rest := []) hv
  refine ⟨3 + (k + 3), t, (runSteps_add hsu _).trans ((runSteps_add huv _).trans hvt), ht.host, ht.cmd, ht.out,
    ht.context, ht.received.trans ?_⟩
  rw [List.replicate_add, List.replicate_one, ← List.append_assoc]
  rfl

/-- Settles O1. -/
theorem encodingsAreTheWordsOfTheTable : Obligations.EncodingsAreTheWordsOfTheTable := by
  refine ⟨fun klen hk => ?_, fun len hl => ?_, rfl, rfl⟩
  · rw [encode, encodeFields_eq_or, BitVec.setWidth_ofNat_of_le_of_lt (by decide) hk]
    rfl
  · rw [encode, encodeFields_eq_or, BitVec.setWidth_ofNat_of_le_of_lt (by decide) hl]
    rfl

/-- Settles O6. -/
theorem sampleWordsDecode : Obligations.SampleWordsDecode := by
  unfold Obligations.SampleWordsDecode
  decide

end Sys2Proof.Proofs

/-!
Proofs for the family of the field arithmetic: the laws of the field operations, of the little-endian conversion and its
inverse, and the short block that `FINAL` and `VERIFY` fold.
-/

namespace Sys2Proof.Machine

/-! ### The field -/

/-- Two integers have the same full reduction exactly when they are congruent modulo `p` (R84). -/
theorem feCanon_eq_iff (x y : Nat) : feCanon x = feCanon y ↔ x ≡ y [MOD 2 ^ 130 - 5] := Fin.ext_iff

/-- The reduction of an addition subtracts `p` at most once, since both operands are below `p` (R82). -/
theorem feAdd_val_cases (a b : FieldElem) :
    (feAdd a b).val = a.val + b.val ∨ (feAdd a b).val + (2 ^ 130 - 5) = a.val + b.val := by
  rw [feAdd_val]
  have ha := fieldElem_lt a
  have hb := fieldElem_lt b
  omega

theorem feAdd_comm (a b : FieldElem) : feAdd a b = feAdd b a := by
  rw [feAdd, Nat.add_comm, feAdd]

theorem feAdd_assoc (a b c : FieldElem) : feAdd (feAdd a b) c = feAdd a (feAdd b c) :=
  Fin.ext (by simp only [feAdd_val, Nat.mod_add_mod, Nat.add_mod_mod, Nat.add_assoc])

theorem feAdd_feZero (a : FieldElem) : feAdd a feZero = a := by
  rw [feAdd, feZero_val, Nat.add_zero, feCanon_fieldElem]

theorem feMul_comm (a b : FieldElem) : feMul a b = feMul b a := by
  rw [feMul, Nat.mul_comm, feMul]

theorem feMul_assoc (a b c : FieldElem) : feMul (feMul a b) c = feMul a (feMul b c) :=
  Fin.ext (by simp only [feMul_val, Nat.mod_mul_mod, Nat.mul_mod_mod, Nat.mul_assoc])

theorem feMul_feAdd (a b c : FieldElem) : feMul a (feAdd b c) = feAdd (feMul a b) (feMul a c) :=
  Fin.ext (by simp only [feMul_val, feAdd_val, Nat.mul_mod_mod, Nat.mod_add_mod, Nat.add_mod_mod, Nat.mul_add])

theorem feMul_one (a : FieldElem) : feMul a (toField 1) = a := by
  rw [feMul, toField_val_of_lt (by decide), Nat.mul_one, feCanon_fieldElem]

theorem feMul_feZero (a : FieldElem) : feMul a feZero = feZero := by
  rw [feMul, feZero_val, Nat.mul_zero, feZero]

/-! ### The little-endian conversion -/

/-- `le` is the sum of its bytes, each at its place (R86). -/
theorem le_eq_sum (b : List Byte) :
    le b = ((List.range b.length).map fun i => (b.getD i 0).toNat * 2 ^ (8 * i)).sum := by
  induction b with
  | nil => rfl
  | cons x xs ih =>
    have hterm (i : Nat) : ((x :: xs).getD (i + 1) 0).toNat * 2 ^ (8 * (i + 1)) =
        2 ^ 8 * ((xs.getD i 0).toNat * 2 ^ (8 * i)) := by
      rw [List.getD_cons_succ, pow_succ_byte, Nat.mul_left_comm]
    rw [le_cons, ih, ← List.sum_map_mul_left, List.length_cons, List.range_succ_eq_map, List.map_cons, List.sum_cons,
      List.map_map, List.getD_cons_zero, Nat.mul_zero, Nat.pow_zero, Nat.mul_one]
    exact congrArg (x.toNat + List.sum ·) (List.map_congr_left fun i _ => (hterm i).symm)

/-- A zero byte at the end does not change `le` (R86). -/
theorem le_append_zero (b : List Byte) : le (b ++ [0]) = le b := by
  rw [le_append]
  exact congrArg (le b + ·) (Nat.mul_zero _)

/-- The marker byte `01` after a string is the marker bit above its bytes (R127). -/
theorem le_append_one (b : List Byte) : le (b ++ [1]) = le b + 2 ^ (8 * b.length) := by
  rw [le_append]
  exact congrArg (le b + ·) (Nat.mul_one _)

/-- Serialization undoes `le` (R87). -/
theorem tole_le (b : List Byte) : tole b.length (le b) = b := by
  induction b with
  | nil => rfl
  | cons x xs ih =>
    have hhead : BitVec.ofNat 8 (x.toNat + 2 ^ 8 * le xs) = x := by bv_omega
    have htail : (x.toNat + 2 ^ 8 * le xs) / 2 ^ 8 = le xs := by
      have := x.isLt
      omega
    rw [List.length_cons, le_cons, tole_succ, hhead, htail, ih]

/-! ### The short block -/

/-- `FINAL` and `VERIFY` fold a pending block of `BUFLEN > 0` bytes as the bytes with the marker byte after them (R125,
R127). -/
theorem foldPending_eq_foldBlock {r : U128} {h : FieldElem} {buf : List Byte} {bufLen : BitVec 4}
    (hpos : 0 < bufLen.toNat) (hlen : buf.length = bufLen.toNat) :
    foldPending r h buf bufLen = foldBlock r h (le (buf ++ [1])) := by
  rw [foldPending, if_pos hpos, ← hlen, List.take_length, le_append_one]

/-- The marker bit is above the bytes, so a marked block stands between the marker and its double (R90). -/
theorem le_append_one_bounds (b : List Byte) :
    2 ^ (8 * b.length) ≤ le (b ++ [1]) ∧ le (b ++ [1]) < 2 ^ (8 * b.length + 1) := by
  rw [le_append_one, Nat.pow_succ]
  have := le_lt_pow b
  omega

/-- A marked block of at most 15 bytes is below `2^121` (R90). -/
theorem le_append_one_lt_of_short {b : List Byte} (h : b.length < 16) : le (b ++ [1]) < 2 ^ 121 :=
  (le_append_one_bounds b).2.trans_le (Nat.pow_le_pow_right (by decide) (by omega))

end Sys2Proof.Machine

namespace Sys2Proof.Proofs

open Sys2Proof.Machine Sys2Proof.Safety

/-- Settles O32: `BUFLEN` has 4 bits, so the block is short, and its value with the marker is below `p`. -/
theorem shortBlockMarker : Obligations.ShortBlockMarker := by
  intro r h buf bufLen hpos hlen
  have hfold := foldPending_eq_foldBlock (r := r) (h := h) hpos hlen
  have hshort : le (buf ++ [1]) < 2 ^ 121 := le_append_one_lt_of_short (hlen ▸ bufLen.isLt)
  obtain ⟨hlow, hhigh⟩ := le_append_one_bounds buf
  rw [← hlen]
  exact ⟨hfold, by rw [hfold, foldBlock_val, le_append_one], le_append_one buf, hlow, hhigh, hshort,
    toField_val_of_lt (hshort.trans (by decide))⟩

/-- Settles O49. -/
theorem littleEndianIsTheSum : Obligations.LittleEndianIsTheSum :=
  ⟨rfl, fun b => ⟨le_eq_sum b, le_lt_pow b, le_append_zero b⟩⟩

/-- Settles O50. -/
theorem serializationBytes : Obligations.SerializationBytes := by
  refine ⟨fun n v => ⟨tole_length n v, fun i hi => ?_, fun hv => ?_⟩, tole_le⟩
  · rw [tole_getD n v i hi, BitVec.toNat_ofNat]
  · rw [le_tole_mod, Nat.mod_eq_of_lt hv]

/-- Settles O45. -/
theorem fieldAdditionLaws : Obligations.FieldAdditionLaws :=
  ⟨feAdd_val, feAdd_comm, feAdd_assoc, feAdd_feZero, feAdd_val_cases⟩

/-- Settles O46. -/
theorem fieldMultiplicationLaws : Obligations.FieldMultiplicationLaws :=
  ⟨feMul_val, feMul_comm, feMul_assoc, feMul_feAdd, feMul_one, feMul_feZero, (feCanon_eq_iff _ _).mpr (by decide)⟩

/-- Settles O47. -/
theorem fullReduction : Obligations.FullReduction :=
  ⟨fun x => ⟨feCanon_val x, fieldElem_lt _⟩, fun a b => ⟨feCanon_fieldElem (feAdd a b), feCanon_fieldElem (feMul a b)⟩⟩

/-- Settles O48. -/
theorem truncationAndMaskAddition : Obligations.TruncationAndMaskAddition := ⟨trunc128_toNat, u128Add_toNat⟩

end Sys2Proof.Proofs

/-!
Proofs for the family of the clamper and `INIT`: the four commands against the one-shot function, the clamp in its three
views, and the `INIT` of the one-shot form.
-/

namespace Sys2Proof.Machine

open Sys2Proof.Safety

/-! ### The comparison of `VERIFY` -/

/-- Strings of one length with the same `le` are the same (R87). -/
theorem le_inj {a b : List Byte} (hlen : a.length = b.length) : le a = le b ↔ a = b :=
  ⟨fun h => by rw [← tole_le a, h, hlen, tole_le], congrArg le⟩

/-- No bit of the difference accumulator is set exactly when none was and every pair is of equal bytes (R140). -/
theorem compare_diff_eq_zero_iff (l : List (Byte × Byte)) (c : Comparison) :
    (l.foldl compareByte c).diff = 0#8 ↔ c.diff = 0#8 ∧ ∀ x ∈ l, x.1 = x.2 := by
  induction l generalizing c with
  | nil => simp
  | cons x xs ih =>
    rw [List.foldl_cons, ih, compareByte, BitVec.or_eq_zero_iff, BitVec.xor_eq_zero_iff, List.forall_mem_cons,
      and_assoc]

/-- The comparison of strings of one length finds no difference exactly when they are the same (R140). -/
theorem compareTags_diff_eq_zero_iff {a b : List Byte} (hlen : a.length = b.length) :
    (compareTags a b).diff = 0#8 ↔ a = b := by
  rw [compareTags, compare_diff_eq_zero_iff, and_iff_right rfl, ← List.forall₂_eq_eq_eq, List.forall₂_iff_zip,
    and_iff_right hlen, Prod.forall]

theorem le_tagInBytes (x : U128) : le (tagInBytes x) = x.toNat := by
  rw [tagInBytes, le_tole_mod]
  exact Nat.mod_eq_of_lt x.isLt

/-- The tag bytes serialize the tag value of the registers (R131). -/
theorem le_tag (s : State) : le s.tag = Safety.State.tagValue s := by
  have hle : le s.tag < 2 ^ 128 := by simpa only [tag_length] using le_lt_pow s.tag
  have hval : Safety.State.tagValue s < 2 ^ 128 := Nat.mod_lt _ (by decide)
  have h := congrArg BitVec.toNat (u128OfBytes_tag s)
  rwa [u128OfBytes, BitVec.toNat_ofNat, BitVec.toNat_ofNat, Nat.mod_eq_of_lt hle, Nat.mod_eq_of_lt hval] at h

/-- `VERIFY` finds no difference exactly when the candidate is the tag value (R140). -/
theorem comparison_diff_eq_zero_iff (s : State) :
    s.comparison.diff = 0#8 ↔ s.tagIn.toNat = Safety.State.tagValue s := by
  have hlen : s.tag.length = (tagInBytes s.tagIn).length := (tag_length s).trans (tagInBytes_length _).symm
  rw [State.comparison, compareTags_diff_eq_zero_iff hlen, ← le_inj hlen, le_tag, le_tagInBytes, eq_comm]

/-! ### `VERIFY` with a context, `INIT` with another key size -/

/-- The response of a command that ends with `OK` (R67). -/
theorem okResponse_eq (m : Bool) (x : U128) : okResponse m x = ⟨if m then 0x10#8 else 0x00#8, x⟩ :=
  congrArg (Response.mk · x) (okResponse_rsp m x)

theorem exec_verify_verdict {s : State} (hv : s.valid = true) :
    exec .verify s =
      .next (s.respond ⟨if s.tagIn.toNat = Safety.State.tagValue s then 0x10#8 else 0x00#8, 0#128⟩) := by
  refine (execVerify_eq s).trans ?_
  rw [if_neg (by simp [hv]), okResponse_eq]
  simp only [beq_iff_eq, comparison_diff_eq_zero_iff]

theorem exec_init_refuse {klen : Nat} (hk : klen ≠ 256) (s : State) :
    exec (.init klen) s = .next (s.raise .invalidKeySize) :=
  (execInit_eq klen s).trans (by rw [if_neg hk])

/-! ### The clamp of a key, part by part -/

/-- A part of `R` is that part of `KEY` and'ed with that part of the mask (R102). -/
theorem keyR_extractLsb' (key : KeyBus) {i n : Nat} (h : i + n ≤ 128) :
    (keyR key).extractLsb' i n = key.extractLsb' i n &&& clampMask.extractLsb' i n := by
  rw [keyR, clamp, BitVec.extractLsb'_and, keyRHalf, BitVec.extractLsb'_extractLsb'_of_le h]

theorem keyR_getLsbD (key : KeyBus) {i : Nat} (h : i < 128) :
    (keyR key).getLsbD i = (key.getLsbD i && clampMask.getLsbD i) := by
  simp [keyR, clamp, keyRHalf, h]

/-- `n` key bytes from byte `i` on are `n` bytes of the bus (R41). -/
theorem le_keyBytes_drop_take (key : KeyBus) {i n : Nat} (h : i + n ≤ 32) :
    le (((keyBytes key).drop i).take n) = (key.extractLsb' (8 * i) (8 * n)).toNat := by
  obtain ⟨m, hm⟩ := Nat.exists_eq_add_of_le h
  rw [keyBytes, hm, Nat.add_assoc, tole_drop, tole_take, le_tole_mod, BitVec.extractLsb'_toNat,
    Nat.shiftRight_eq_div_pow]

/-- Word `j` of `R` is key word `j` and'ed with word `j` of the mask (R102). -/
theorem keyR_word (key : KeyBus) {j : Nat} (h : j < 4) :
    (keyR key).toNat / 2 ^ (32 * j) % 2 ^ 32 =
      le (((keyBytes key).drop (4 * j)).take 4) &&& (clampMask.extractLsb' (32 * j) 32).toNat := by
  have hpart := congrArg BitVec.toNat (keyR_extractLsb' key (i := 32 * j) (n := 32) (by omega))
  rw [BitVec.toNat_and, BitVec.extractLsb'_toNat, Nat.shiftRight_eq_div_pow] at hpart
  rw [hpart, le_keyBytes_drop_take key (by omega), ← Nat.mul_assoc]

/-- A serialization is the list of its bytes (R87). -/
theorem tole_eq_map_range {w : Nat} (n : Nat) (x : BitVec w) :
    tole n x.toNat = (List.range n).map fun i => x.extractLsb' (8 * i) 8 := by
  refine List.ext_getElem (by simp) fun i hi _ => ?_
  rw [tole_length] at hi
  rw [List.getElem_map, List.getElem_range, ← tole_getD_eq_extractLsb' x hi, List.getD_eq_getElem]

/-- The bytes of the mask (R103). -/
theorem clampMask_byte : ∀ i < 16, clampMask.extractLsb' (8 * i) 8 =
    if i % 4 = 3 then 0x0F#8 else if i = 4 ∨ i = 8 ∨ i = 12 then 0xFC#8 else 0xFF#8 := by decide

/-- The bits of the mask (R102). -/
theorem clampMask_bit : ∀ i < 128, (clampMask.getLsbD i = true ↔
    ¬ ((28 ≤ i ∧ i ≤ 31) ∨ (32 ≤ i ∧ i ≤ 33) ∨ (60 ≤ i ∧ i ≤ 63) ∨ (64 ≤ i ∧ i ≤ 65) ∨
      (92 ≤ i ∧ i ≤ 95) ∨ (96 ≤ i ∧ i ≤ 97) ∨ (124 ≤ i ∧ i ≤ 127))) := by decide

/-- A 128-bit integer is the sum of its four words. -/
theorem toNat_eq_words (x : U128) : x.toNat = x.toNat / 2 ^ (32 * 0) % 2 ^ 32 +
    x.toNat / 2 ^ (32 * 1) % 2 ^ 32 * 2 ^ 32 + x.toNat / 2 ^ (32 * 2) % 2 ^ 32 * 2 ^ 64 +
    x.toNat / 2 ^ (32 * 3) % 2 ^ 32 * 2 ^ 96 := by
  have := x.isLt
  omega

/-- After `INIT` the multiplier is that of the key on `KEY` (R100). -/
theorem regR_of_init {s t : State} (h : exec (.init 256) s = .next t) : t.regR = keyR s.key := by
  rw [← Host.Outcome.next.inj ((exec_init_load s).symm.trans h), State.respond_regR, State.loadContext_regR]

/-! ### The exchange of an `INIT` -/

/-- Two steps perform the `INIT` of a host on an idle core, and a third takes its response. -/
theorem runSteps_init {s u : State} {klen skip : Nat} {key : KeyBus} {rest : List HostAction} {r : Response}
    (hk : klen < 2 ^ 16) (hc : s.cmd = none) (ho : s.out = none) (hh : s.host = initActions klen key skip ++ rest)
    (hx : exec (.init klen) (s.asked (encode (.init klen)) key 0#128 skip rest) = .next (u.respond r))
    (hu : u.host = .take skip :: rest) :
    runSteps 2 s = some (u.respond r) ∧
      runSteps 3 s = some (((u.respond r).takeResponse r).hostRest (actionsAfter r skip rest)) := by
  have hd : decode (encode (.init klen)) = .legal (.init klen) := decode_encode (wellFormed_init.mpr hk)
  have hp : payloadLength (encode (.init klen)) ≤ s.din.length :=
    (payloadLength_of_not_update hd nofun).trans_le (Nat.zero_le _)
  exact ⟨runSteps_perform hc ho hh hd hp hx, runSteps_exchange hc ho hh hd hp hx hu⟩

end Sys2Proof.Machine

namespace Sys2Proof.Safety

open Sys2Proof.Machine

/-! ### A multiplier of 0 -/

/-- With a multiplier of 0 the accumulator stays 0 (R109). -/
theorem polyFold_zero (cs : List Nat) : polyFold 0 0 cs = 0 := by
  induction cs with
  | nil => rfl
  | cons c cs ih => simpa [polyFold] using ih

theorem pendingFold_zero (pending : List Byte) (len : Nat) : pendingFold 0 0 pending len = 0 := by
  simp [pendingFold]

/-- With a multiplier of 0 the tag value of a context is its mask (R109, R135). -/
theorem Represents.tagValue_eq_mask {s : State} {key : KeyBus} {msg : List Byte} (h : Represents s key msg)
    (hr : s.regR = 0#128) : State.tagValue s = s.regS.toNat := by
  obtain ⟨-, hkey, -, hh, -, -⟩ := h
  have hzero : s.regR.toNat = 0 := congrArg BitVec.toNat hr
  rw [macAccumulator, ← hkey, hzero, polyFold_zero] at hh
  rw [State.tagValue, tagValue, hzero, hh, pendingFold_zero, Nat.zero_mod, Nat.zero_mod, Nat.zero_add,
    Nat.mod_eq_of_lt s.regS.isLt]

end Sys2Proof.Safety

namespace Sys2Proof.Proofs

open Sys2Proof.Machine Sys2Proof.Safety

/-- Settles O57: a load begins the empty message, a fold appends, `FINAL` and `VERIFY` read the tag value and only
respond. -/
theorem streamingRefinesOneShot : Obligations.StreamingRefinesOneShot := by
  refine ⟨fun s => ⟨_, exec_init_load s, represents_loadContext s s.key⟩, fun s key msg h => ?_⟩
  have ⟨hv, _⟩ := h
  refine ⟨fun len hlen => ?_, ⟨_, exec_final_tag hv, h, ?_⟩, ⟨_, exec_verify_verdict hv, h, ?_⟩⟩
  · have hfold := exec_update_fold (List.take_append_drop len s.din).symm hv
    rw [List.length_take_of_le hlen] at hfold
    exact ⟨_, hfold, h.absorbBytes (s.din.take len)⟩
  · rw [u128OfBytes_tag, h.tagValue_eq]
    rfl
  · rw [h.tagValue_eq]
    rfl

/-- Settles O59: the refusal ends the form, since its take leaves out all of the message's actions; the load goes on. -/
theorem oneShotFailsExactlyWithItsInit : Obligations.OneShotFailsExactlyWithItsInit := by
  intro s klen key msg rest hk hc ho hh
  rw [oneShotActions, List.append_assoc] at hh
  by_cases h256 : klen = 256
  · subst h256
    obtain ⟨h2, h3⟩ := runSteps_init hk hc ho hh (exec_init_load _) rfl
    rw [actionsAfter_ok] at h3
    exact ⟨_, _, _, h2, rfl, h3, by decide, fun h => absurd rfl h,
      fun _ => ⟨represents_loadContext s key, rfl, rfl, rfl, rfl, rfl⟩⟩
  · obtain ⟨h2, h3⟩ := runSteps_init hk hc ho hh (exec_init_refuse h256 _) rfl
    rw [actionsAfter_error (by decide), List.drop_left] at h3
    refine ⟨_, _, _, h2, rfl, h3, iff_of_true (by decide) h256, fun _ => ?_, fun h => absurd h h256⟩
    rw [hc, ho]
    rfl

/-- Settles O22: each word, and each bit, of `R` is that of `KEY` and that of the mask. -/
theorem clampInTheWordView : Obligations.ClampInTheWordView := by
  intro s t h
  rw [regR_of_init h]
  constructor
  · rw [toNat_eq_words, keyR_word _ (by decide), keyR_word _ (by decide), keyR_word _ (by decide),
      keyR_word _ (by decide)]
    rfl
  · intro i hi
    rw [keyR_getLsbD s.key hi, Bool.and_eq_true, clampMask_bit i hi]

/-- Settles O23: each byte of `R` is that of `KEY` and that of the mask. -/
theorem clampInTheByteView : Obligations.ClampInTheByteView := by
  intro s t h
  rw [regR_of_init h, ← le_tagInBytes, tagInBytes, tole_eq_map_range]
  refine congrArg le (List.map_congr_left fun i hi => ?_)
  have hi : i < 16 := List.mem_range.mp hi
  rw [keyR_extractLsb' s.key (by omega), clampMask_byte i hi]

/-- Settles O25. -/
theorem zeroMultiplierGivesTheMask : Obligations.ZeroMultiplierGivesTheMask := by
  intro s key msg h hr
  have ⟨hv, _⟩ := h
  rw [exec_final_tag hv, u128OfBytes_tag, h.tagValue_eq_mask hr, BitVec.ofNat_toNat, BitVec.setWidth_eq]
  rfl

/-- Settles O21. -/
theorem initRefusesOtherKeySizes : Obligations.InitRefusesOtherKeySizes := fun s _ hk => exec_init_refuse hk s

end Sys2Proof.Proofs

/-!
Proofs for the family of the accumulator and `UPDATE`: what one `UPDATE` does with its bytes, that the cuts between them do
not matter, and the fold as the value of a polynomial.
-/

namespace Sys2Proof.Machine

open Sys2Proof.Safety

/-! ### The fold of a string -/

/-- All full blocks folded, and the bytes after them, in plain arithmetic (R112, R113). -/
theorem absorbAll_eq (r : U128) (h : FieldElem) (w : List Byte) :
    absorbAll r h w = (feCanon (polyFold r.toNat h.val (blockValues w)), tailBytes w) := by
  rw [← absorbAll_fst_val, feCanon_fieldElem, tailBytes, ← absorbAll_snd]

/-- With no full block there is nothing to fold (R110). -/
theorem absorbAll_of_short (r : U128) (h : FieldElem) {w : List Byte} (hw : w.length < 16) :
    absorbAll r h w = (h, w) := by
  rw [absorbAll, Nat.div_eq_of_lt hw, absorb_zero]

/-- The register writes of an `UPDATE` in plain arithmetic (R110, R113). -/
theorem absorbBytes_eq (s : State) (x : List Byte) : s.absorbBytes x = { s with
    regH := feCanon (polyFold s.regR.toNat s.regH.val (blockValues (s.buf ++ x)))
    buf := tailBytes (s.buf ++ x)
    bufLen := BitVec.ofNat 4 ((s.buf.length + x.length) % 16) } := by
  rw [State.absorbBytes, absorbAll_eq, State.writeAccumulator, tailBytes_length, List.length_append]

/-- No bytes change nothing: what is pending is less than a block (R115). -/
theorem absorbBytes_nil {s : State} (hs : s.buf.length = s.bufLen.toNat) : s.absorbBytes [] = s := by
  have hshort : s.buf.length < 16 := hs ▸ s.bufLen.isLt
  rw [State.absorbBytes, List.append_nil, absorbAll_of_short _ _ hshort, State.writeAccumulator, hs,
    BitVec.ofNat_toNat, BitVec.setWidth_eq]

/-- Bytes in two parts leave the same registers as in one (R114). -/
theorem absorbBytes_append (s : State) (a b : List Byte) :
    s.absorbBytes (a ++ b) = (s.absorbBytes a).absorbBytes b := by
  rw [State.absorbBytes, ← List.append_assoc, absorbAll_append]
  rfl

/-! ### `UPDATE` with its bytes on `DIN` -/

/-- Without a context `UPDATE` discards its bytes (R116). -/
theorem exec_update_discard {s : State} {len : Nat} (hlen : len ≤ s.din.length) (hv : s.valid = false) :
    exec (.update len) s = .next ((s.dinDrop len).raise .noContext) :=
  (execUpdate_eq len s).trans (by rw [if_neg hlen.not_gt, if_pos hv])

/-- What an `UPDATE` that takes all of `DIN`, the bytes `x`, leaves of a context. -/
def State.fed (s : State) (x : List Byte) : State :=
  { s.absorbBytes x with din := [] }.respond (okResponse false 0#128)

theorem feed_eq_fed {s : State} (hv : s.valid = true) (x : List Byte) : feed s x = some (s.fed x) := by
  have hexec := exec_update_fold (s := { s with din := x }) (List.append_nil x).symm hv
  rw [feed, issue, hexec]
  rfl

/-! ### A full block -/

/-- A block value is that of the block with the marker byte `01` after it (R111, R127). -/
theorem blockValue_eq_le_append_one (b : List Byte) : blockValue b = le (b ++ [1]) := (le_append_one b).symm

/-- The value of a full block has bit 128 set and no higher one (R111). -/
theorem blockValue_bounds {b : List Byte} (h : b.length = 16) : 2 ^ 128 ≤ blockValue b ∧ blockValue b < 2 ^ 129 := by
  simpa only [h, ← blockValue_eq_le_append_one] using le_append_one_bounds b

/-- The reduction between the addition and the multiplication does not matter (R112). -/
theorem foldBlock_val_reduce_once (r : U128) (h : FieldElem) (c : Nat) :
    (foldBlock r h c).val = (h.val + c) * r.toNat % (2 ^ 130 - 5) := by
  rw [foldBlock_val, Nat.mod_mul_mod]

end Sys2Proof.Machine

namespace Sys2Proof.Safety

open Sys2Proof.Machine

/-! ### The fold is a polynomial in the multiplier -/

/-- `c_1 * r^n + … + c_n * r`, the polynomial of R112. -/
def polyValue (r : Nat) (cs : List Nat) : Nat :=
  ((List.range cs.length).map fun i => cs.getD i 0 * r ^ (cs.length - i)).sum

theorem polyValue_cons (r c : Nat) (cs : List Nat) :
    polyValue r (c :: cs) = c * r ^ (cs.length + 1) + polyValue r cs := by
  simp [polyValue, List.range_succ_eq_map, Function.comp_def]

/-- Modulo `p` the fold from `h` evaluates the polynomial, `h` standing before the first coefficient (R112). -/
theorem polyFold_modEq (r h : Nat) (cs : List Nat) :
    polyFold r h cs ≡ h * r ^ cs.length + polyValue r cs [MOD 2 ^ 130 - 5] := by
  induction cs generalizing h with
  | nil => simp [polyFold, polyValue, Nat.ModEq.refl]
  | cons c cs ih =>
    have hstep : (h + c) % (2 ^ 130 - 5) * r % (2 ^ 130 - 5) ≡ (h + c) * r [MOD 2 ^ 130 - 5] :=
      (Nat.mod_modEq _ _).trans ((Nat.mod_modEq _ _).mul_right r)
    calc polyFold r h (c :: cs)
      _ ≡ (h + c) % (2 ^ 130 - 5) * r % (2 ^ 130 - 5) * r ^ cs.length + polyValue r cs [MOD 2 ^ 130 - 5] := ih _
      _ ≡ (h + c) * r * r ^ cs.length + polyValue r cs [MOD 2 ^ 130 - 5] := (hstep.mul_right _).add_right _
      _ = h * r ^ (c :: cs).length + polyValue r (c :: cs) := by
        rw [polyValue_cons, List.length_cons, Nat.pow_succ]
        ring

/-! ### A message in chunks -/

/-- The bytes after the last full block are the last `|m| mod 16` bytes (R113). -/
theorem tailBytes_eq_drop_sub (m : List Byte) : tailBytes m = m.drop (m.length - m.length % 16) := by
  rw [tailBytes, Nat.mul_div_self_eq_mod_sub_self]

/-- `UPDATE`s of chunks append them all to the message of the context (R114). -/
theorem Represents.feedAll_appends {s : State} {key : KeyBus} {msg : List Byte} (h : Represents s key msg)
    (chunks : List (List Byte)) :
    ∃ t, feedAll s chunks = some t ∧ Represents t key (msg ++ chunks.flatten) := by
  induction chunks generalizing s msg with
  | nil => exact ⟨s, rfl, by rwa [List.flatten_nil, List.append_nil]⟩
  | cons c cs ih =>
    have ⟨hv, _⟩ := h
    obtain ⟨t, hfeed, ht⟩ := ih (s := s.fed c) (h.absorbBytes c)
    rw [feedAll, feed_eq_fed hv, List.flatten_cons, ← List.append_assoc]
    exact ⟨t, hfeed, ht⟩

end Sys2Proof.Safety

namespace Sys2Proof.Proofs

open Sys2Proof.Machine Sys2Proof.Safety

/-- Settles O26: the `LEN` oldest bytes of `DIN` are absorbed, the others stay. -/
theorem updateFoldsTheBlocks : Obligations.UpdateFoldsTheBlocks := by
  intro s len hv hlen
  have hfold := exec_update_fold (List.take_append_drop len s.din).symm hv
  rw [absorbBytes_eq, List.length_take_of_le hlen] at hfold
  exact hfold

/-- Settles O28: no bytes are discarded without a context, and none absorbed with one. -/
theorem emptyUpdateChangesNothing : Obligations.EmptyUpdateChangesNothing := by
  intro s ⟨_, hbuf, _⟩
  by_cases hv : s.valid = true
  · have hfold := exec_update_fold (x := []) (List.nil_append s.din).symm hv
    rw [absorbBytes_nil hbuf] at hfold
    rw [if_pos hv]
    exact hfold
  · rw [if_neg hv]
    exact exec_update_discard (Nat.zero_le _) (Bool.eq_false_of_not_eq_true hv)

/-- Settles O29: the fold can be cut anywhere, and after `INIT` the registers hold the context of all the bytes so far. -/
theorem chunkingEquivalence : Obligations.ChunkingEquivalence := by
  constructor
  · intro s a b hv
    refine ⟨_, _, _, feed_eq_fed hv a, feed_eq_fed (s := s.fed a) hv b, feed_eq_fed hv (a ++ b), ?_⟩
    rw [State.fed, absorbBytes_append]
    exact ⟨rfl, rfl, rfl, rfl, rfl, rfl⟩
  · intro s s0 chunks hinit
    have hload : Represents s0 s.key [] := by
      rw [issue, exec_init_load] at hinit
      exact Option.some.inj hinit ▸ represents_loadContext s s.key
    obtain ⟨t, hfeed, hv, hr, hm, hh, hb, hl⟩ := hload.feedAll_appends chunks
    obtain ⟨-, hr0, hm0, -, -, -⟩ := hload
    rw [List.nil_append] at hh hb hl
    exact ⟨t, hfeed, hv, BitVec.eq_of_toNat_eq (hr.trans hr0.symm), BitVec.eq_of_toNat_eq (hm.trans hm0.symm), hl,
      hb.trans (tailBytes_eq_drop_sub _), by rw [hh, hr0, macAccumulator]⟩

/-- Settles O30: with multiplier 2, folding the value 1 into 0 gives 2, and multiplying first would give 1. -/
theorem foldIsThePolynomial : Obligations.FoldIsThePolynomial := by
  refine ⟨fun r h c => ⟨foldBlock_val r h c, foldBlock_val_reduce_once r h c⟩, ⟨2#128, feZero, 1, by decide⟩, ?_⟩
  intro r cs
  have hpoly := polyFold_modEq r 0 cs
  rwa [Nat.zero_mul, Nat.zero_add] at hpoly

/-- Settles O31: with the marker at bit 128 the value is below `p`. -/
theorem fullBlockMarker : Obligations.FullBlockMarker := by
  intro b hb
  obtain ⟨hlow, hhigh⟩ := blockValue_bounds hb
  exact ⟨blockValue_eq_markedBlock hb, blockValue_eq_le_append_one b, hlow, hhigh,
    toField_val_of_lt (hhigh.trans (by decide))⟩

/-- Settles O27. -/
theorem updateWithoutContextDiscards : Obligations.UpdateWithoutContextDiscards :=
  fun _ _ hv hlen => exec_update_discard hlen hv

end Sys2Proof.Proofs

/-!
Proofs for the family of the finalizer and `FINAL`: the tag as bytes, `FINAL` and `VERIFY` with and without a context,
`FINAL` as a projection, and the tag of the empty message.
-/

namespace Sys2Proof.Machine

open Sys2Proof.Safety

/-! ### The tag as bytes -/

/-- The tag is the serialization of the tag value of the registers (R131). -/
theorem tag_eq_tole (s : State) : s.tag = tole 16 (Safety.State.tagValue s) := by
  rw [← le_tag, ← tag_length s, tole_le]

/-! ### `FINAL` and `VERIFY` with and without a context -/

/-- With a context `FINAL` answers `OK` and the tag value of the registers (R125, R126). -/
theorem exec_final_value {s : State} (hv : s.valid = true) :
    exec .final s = .next (s.respond ⟨0x00#8, BitVec.ofNat 128 (Safety.State.tagValue s)⟩) := by
  rw [exec_final_tag hv, u128OfBytes_tag]
  rfl

theorem exec_final_noContext {s : State} (hv : s.valid = false) : exec .final s = .next (s.raise .noContext) :=
  (execFinal_eq s).trans (by rw [if_pos hv])

theorem exec_verify_noContext {s : State} (hv : s.valid = false) : exec .verify s = .next (s.raise .noContext) :=
  (execVerify_eq s).trans (by rw [if_pos hv])

/-- With a context or without, all that `FINAL` does is respond (R132). -/
theorem exec_final_responds {s t : State} (h : exec .final s = .next t) : ∃ r, t = s.respond r := by
  cases exec_cases h with
  | finalNoContext _ ht => exact ⟨_, ht⟩
  | finalTag _ ht => exact ⟨_, ht⟩

/-! ### What a command reads -/

/-- A command that does not wait for bytes does not depend on the command and the response that stand on the ports: it
ends the one and overwrites the other. -/
theorem exec_of_ports (i : Instr) (s : State) (cmd : Option Word) (out : Option Response)
    (hlen : ∀ len, i = .update len → len ≤ s.din.length) :
    exec i { s with cmd := cmd, out := out } = exec i s := by
  cases i with
  | init klen => rfl
  | update len =>
    have hall : ¬ s.din.length < len := (hlen len rfl).not_gt
    refine (execUpdate_eq len _).trans (.trans ?_ (execUpdate_eq len s).symm)
    rw [if_neg hall, if_neg hall]
    rfl
  | final => rfl
  | verify => rfl

end Sys2Proof.Machine

namespace Sys2Proof.Safety

open Sys2Proof.Machine

/-! ### The empty message -/

theorem issue_of_exec {i : Instr} {s t : State} (h : exec i s = .next t) : issue i s = some t := by
  rw [issue, h]

/-- `INIT` with `KLEN = 256` leaves the context of the key on `KEY` and of the empty message (R26). -/
theorem issue_init_represents (s : State) : ∃ t, issue (.init 256) s = some t ∧ Represents t s.key [] :=
  ⟨_, issue_of_exec (exec_init_load s), represents_loadContext s s.key⟩

/-- The tag value of the context of the empty message is its mask (R134). -/
theorem Represents.tagValue_of_nil {s : State} {key : KeyBus} (h : Represents s key []) :
    State.tagValue s = s.regS.toNat := by
  obtain ⟨-, -, -, hh, -, hl⟩ := h
  have hacc : s.regH.val = 0 := hh
  have hlen : s.bufLen.toNat = 0 := hl
  rw [State.tagValue, tagValue, pendingFold, hlen, if_neg (lt_irrefl 0), hacc, Nat.zero_mod, Nat.zero_mod, Nat.zero_add,
    Nat.mod_eq_of_lt s.regS.isLt]

/-- `UPDATE`s of no bytes leave the context of the same message (R115). -/
theorem Represents.feedAll_replicate_nil {s : State} {key : KeyBus} {msg : List Byte} (h : Represents s key msg)
    (n : Nat) : ∃ t, feedAll s (List.replicate n []) = some t ∧ Represents t key msg := by
  obtain ⟨t, hfeed, ht⟩ := h.feedAll_appends (List.replicate n [])
  rw [List.flatten_replicate_nil, List.append_nil] at ht
  exact ⟨t, hfeed, ht⟩

/-- A context's `S` is the high half of its key (R104). -/
theorem Represents.regS_eq {s : State} {key : KeyBus} {msg : List Byte} (h : Represents s key msg) :
    s.regS = keyS key := by
  obtain ⟨-, -, hm, -⟩ := h
  exact BitVec.eq_of_toNat_eq (hm.trans (keyS_toNat key).symm)

end Sys2Proof.Safety

namespace Sys2Proof.Proofs

open Sys2Proof.Machine Sys2Proof.Safety

/-- Settles O35: `FINAL` only responds, and neither it nor an `UPDATE` with its bytes reads the ports it responds on. -/
theorem finalIsAProjection : Obligations.FinalIsAProjection := by
  intro s t h
  obtain ⟨r, rfl⟩ := exec_final_responds h
  obtain ⟨hctx, -⟩ := respond_frame s r
  exact ⟨hctx, rfl, (exec_of_ports .final s none none nofun).trans h,
    fun len hlen => exec_of_ports (.update len) s none none fun _ hi => Instr.update.inj hi ▸ hlen⟩

/-- Settles O36: from `INIT` to `FINAL` the slot holds the context of the empty message. -/
theorem emptyMessageTagIsTheMask : Obligations.EmptyMessageTagIsTheMask := by
  intro s n
  obtain ⟨s0, hinit, hs0⟩ := issue_init_represents s
  obtain ⟨t, hfeed, ht⟩ := hs0.feedAll_replicate_nil n
  have ⟨hv, _, hm, hh, _, hl⟩ := ht
  have hfinal := issue_of_exec (exec_final_value hv)
  rw [ht.tagValue_of_nil, BitVec.ofNat_toNat, BitVec.setWidth_eq] at hfinal
  have htag : t.tag = tole 16 t.regS.toNat := by rw [tag_eq_tole, ht.tagValue_of_nil]
  exact ⟨s0, t, _, hinit, hfeed, hfinal, hh, BitVec.eq_of_toNat_eq hl, ht.regS_eq, rfl, htag,
    by rw [htag, hm, keyBytes_drop, keyMask]⟩

/-- Settles O33. -/
theorem finalOutputsTheTag : Obligations.FinalOutputsTheTag := fun _ hv => exec_final_value hv

/-- Settles O34. -/
theorem tagIsSixteenBytes : Obligations.TagIsSixteenBytes := by
  refine fun s => ⟨tag_length s, fun i hi => ?_, le_tag s⟩
  rw [tag_eq_tole, tole_getD _ _ _ hi, BitVec.toNat_ofNat]

/-- Settles O37. -/
theorem tagCommandsNeedAContext : Obligations.TagCommandsNeedAContext :=
  fun _ hv => ⟨exec_final_noContext hv, exec_verify_noContext hv⟩

end Sys2Proof.Proofs

/-!
Proofs for the family of the verifier and `VERIFY`: the verdict as bits of the response word, the comparison byte pair by
byte pair, and the candidate against what `FINAL` returned.
-/

namespace Sys2Proof.Machine

open Sys2Proof.Safety

/-! ### The comparison, byte pair by byte pair -/

/-- The comparison of strings of `n` bytes examines `n` pairs (R143). -/
theorem compareTags_cost {a b : List Byte} {n : Nat} (ha : a.length = n) (hb : b.length = n) :
    (compareTags a b).cost = n := by
  rw [compareTags, compare_cost, List.length_zip, ha, hb, Nat.min_self, Nat.zero_add]

/-- The comparison of strings of `n` bytes finds a bit exactly when the two bytes at some place differ in it (R142). -/
theorem compareTags_diff_getLsbD {a b : List Byte} {n : Nat} (ha : a.length = n) (hb : b.length = n) (j : Nat) :
    (compareTags a b).diff.getLsbD j = true ↔ ∃ i < n, (a.getD i 0 ^^^ b.getD i 0).getLsbD j = true := by
  have hzip : (a.zip b).length = n := by rw [List.length_zip, ha, hb, Nat.min_self]
  rw [compareTags, compare_diff, or_iff_right (by simp), List.exists_mem_iff_getElem]
  refine exists_congr fun i => ?_
  simp only [hzip, List.getElem_zip]
  rw [← exists_prop]
  refine exists_congr fun hi => ?_
  rw [List.getD_eq_getElem _ _ (ha ▸ hi), List.getD_eq_getElem _ _ (hb ▸ hi)]

/-! ### The verdict -/

/-- A verdict reads back from the response word: `STATUS` is `OK` in either case, and `MATCH` is what was decided (R67). -/
theorem verdict_rsp (p : Prop) [Decidable p] :
    (if p then 0x10#8 else 0x00#8).toNat % 2 ^ 4 = 0 ∧ ((if p then 0x10#8 else 0x00#8).getLsbD 4 = true ↔ p) := by
  by_cases h : p
  · rw [if_pos h]
    exact ⟨rfl, iff_of_true rfl h⟩
  · rw [if_neg h]
    exact ⟨rfl, iff_of_false (by decide) h⟩

/-- The tag value fits `TAGOUT` (R130). -/
theorem tagValue_lt (s : State) : Safety.State.tagValue s < 2 ^ 128 := Nat.mod_lt _ (Nat.two_pow_pos 128)

/-- With a context `FINAL` returns the tag value of the registers on `TAGOUT` (R126). -/
theorem tagOut_of_final {s t : State} {r : Response} (hv : s.valid = true) (h : exec .final s = .next t)
    (ho : t.out = some r) : r.tagOut.toNat = Safety.State.tagValue s := by
  obtain rfl := Host.Outcome.next.inj ((exec_final_value hv).symm.trans h)
  obtain rfl := Option.some.inj ho
  exact Nat.mod_eq_of_lt (tagValue_lt s)

end Sys2Proof.Machine

namespace Sys2Proof.Proofs

open Sys2Proof.Machine Sys2Proof.Safety

/-- Settles O38. -/
theorem verifyReportsEquality : Obligations.VerifyReportsEquality := fun _ hv => exec_verify_verdict hv

/-- Settles O39: the tag value does not depend on the candidate, and `VERIFY` compares the candidate with it. -/
theorem verifyAcceptsExactlyTheFinalTag : Obligations.VerifyAcceptsExactlyTheFinalTag := by
  intro s t r hv hfinal ho cand
  have hverify := exec_verify_verdict (s := { s with tagIn := cand }) hv
  obtain ⟨hok, hmatch⟩ := verdict_rsp (cand.toNat = State.tagValue s)
  refine ⟨_, _, hverify, rfl, hok, hmatch.trans ?_⟩
  rw [← tagOut_of_final hv hfinal ho, BitVec.toNat_inj]

/-- Settles O41. -/
theorem differenceIsTheOrOfAllBytes : Obligations.DifferenceIsTheOrOfAllBytes :=
  fun s => compareTags_diff_getLsbD (tag_length s) (tagInBytes_length s.tagIn)

/-- Settles O40. -/
theorem comparisonCostIsSixteen : Obligations.ComparisonCostIsSixteen :=
  fun s => compareTags_cost (tag_length s) (tagInBytes_length s.tagIn)

end Sys2Proof.Proofs

/-!
Proofs for the family of the exceptions: the status a command ends with, what a failed command leaves, and the command
issued again after it.
-/

namespace Sys2Proof

open Sys2Proof.Machine

/-! ### The payload and the status of a command -/

/-- How many bytes the command takes from `DIN` (R69). -/
def Instr.payload : Instr → Nat
  | .update len => len
  | .init _ | .final | .verify => 0

/-- The status the command ends with when it is performed with `VALID = valid` (R168), by its one check. -/
def Instr.status (valid : Bool) : Instr → Status
  | .init klen => if klen = 256 then .ok else .invalidKeySize
  | .update _ | .final | .verify => if valid then .ok else .noContext

end Sys2Proof

namespace Sys2Proof.Machine

open Sys2Proof.Safety

theorem payloadLength_legal {w : Word} {i : Instr} (h : decode w = .legal i) : payloadLength w = i.payload := by
  cases i <;> simp only [payloadLength, h, Instr.payload]

theorem payloadLength_illegal {w : Word} {why : IllegalReason} (h : decode w = .illegal why) : payloadLength w = 0 := by
  simp only [payloadLength, h]

theorem payloadLength_le_of_not_starved {s : State} {w : Word} (h : s.starved w = false) :
    payloadLength w ≤ s.din.length :=
  not_lt.mp (of_decide_eq_false h)

theorem statusOf_legal {w : Word} {i : Instr} (h : decode w = .legal i) (valid : Bool) :
    statusOf w valid = (statusCode (i.status valid)).toNat := by
  cases i <;> simp only [statusOf, h, Instr.status] <;> split <;> rfl

theorem statusOf_illegal {w : Word} {why : IllegalReason} (h : decode w = .illegal why) (valid : Bool) :
    statusOf w valid = (statusCode .illegalCmd).toNat := by
  simp only [statusOf, h]
  rfl

/-- `STATUS` is `RSP[3:0]` (R67). -/
theorem rspWord_toNat_mod (st : Status) (m : Bool) : (rspWord st m).toNat % 2 ^ 4 = (statusCode st).toNat := by
  cases st <;> cases m <;> rfl

/-! ### How a command ends -/

/-- A command that takes `n` bytes has ended with the status `st` in the state `t`: with `OK`, by a response that says
so; with an error, by that error, and the bytes are all that is gone from the state before it (R163, R165). -/
inductive Ends (s : State) (n : Nat) : Status → State → Prop where
  | ok (t : State) (matched : Bool) (tagOut : U128) (ho : t.out = some (okResponse matched tagOut)) : Ends s n .ok t
  | error (st : Status) (hne : st ≠ .ok) : Ends s n st ((s.dinDrop n).raise st)

section Ends

variable {s t : State} {n : Nat} {st : Status}

theorem Ends.status (h : Ends s n st t) :
    ∃ r : Response, t.out = some r ∧ r.rsp.toNat % 2 ^ 4 = (statusCode st).toNat := by
  cases h with
  | ok _ m x ho => exact ⟨_, ho, rspWord_toNat_mod .ok m⟩
  | error => exact ⟨_, rfl, rspWord_toNat_mod st false⟩

/-- A response that carries an error is that of a command that left the state before it, less its bytes. -/
theorem Ends.eq_of_failed (h : Ends s n st t) {r : Response} (ho : t.out = some r) (hr : r.rsp.toNat % 2 ^ 4 ≠ 0) :
    t = { s with din := s.din.drop n, cmd := none, out := some r } := by
  cases h with
  | ok _ m x hok =>
    obtain rfl := Option.some.inj (hok.symm.trans ho)
    exact absurd (rspWord_toNat_mod .ok m) hr
  | error => exact ho ▸ rfl

/-- A command ends with its status, or it waits for its bytes. -/
theorem ExecCase.ends {i : Instr} (h : ExecCase s t i) :
    (t = s ∧ s.din.length < i.payload) ∨ (i.payload ≤ s.din.length ∧ Ends s i.payload (i.status s.valid) t) := by
  cases h with
  | updateWait len hlen ht => exact .inl ⟨ht, hlen⟩
  | initBadSize klen hk ht => rw [Instr.status, if_neg hk, ht]; exact .inr ⟨Nat.zero_le _, .error _ nofun⟩
  | updateNoContext len hlen hv ht => rw [Instr.status, hv, ht]; exact .inr ⟨hlen, .error _ nofun⟩
  | finalNoContext hv ht | verifyNoContext hv ht =>
    rw [Instr.status, hv, ht]; exact .inr ⟨Nat.zero_le _, .error _ nofun⟩
  | initLoad ht => subst ht; exact .inr ⟨Nat.zero_le _, .ok _ _ _ rfl⟩
  | updateFold len hlen hv ht => rw [Instr.status, hv, ht]; exact .inr ⟨hlen, .ok _ _ _ rfl⟩
  | finalTag hv ht | verifyVerdict hv ht => rw [Instr.status, hv, ht]; exact .inr ⟨Nat.zero_le _, .ok _ _ _ rfl⟩

/-- A command word that is performed ends with the status of R168. -/
theorem runs_ends {w : Word} (hw : Runs s w) (h : step s = .next t) :
    ∃ st, statusOf w s.valid = (statusCode st).toNat ∧ Ends s (payloadLength w) st t := by
  have ⟨_, _, _, hstarved⟩ := hw
  have hrun := (step_of_runs hw).symm.trans h
  cases hd : decode w with
  | illegal why =>
    obtain rfl := Host.Outcome.next.inj ((runCommand_illegal hd s).symm.trans hrun)
    rw [payloadLength_illegal hd]
    exact ⟨_, statusOf_illegal hd _, .error (n := 0) _ nofun⟩
  | legal i =>
    have hlen := payloadLength_le_of_not_starved hstarved
    rw [payloadLength_legal hd] at hlen ⊢
    obtain ⟨-, hwait⟩ | ⟨-, hends⟩ := (exec_cases ((runCommand_legal hd s).symm.trans hrun)).ends
    · exact absurd hwait hlen.not_gt
    · exact ⟨_, statusOf_legal hd _, hends⟩

end Ends

end Sys2Proof.Machine

namespace Sys2Proof.Proofs

open Sys2Proof.Machine Sys2Proof.Safety

/-- Settles O8: an illegal word has no payload to wait for. -/
theorem illegalWordChangesNothing : Obligations.IllegalWordChangesNothing := by
  intro s w why hd hc ho hr
  have hpayload : payloadLength w ≤ s.din.length := payloadLength_illegal hd ▸ Nat.zero_le _
  exact (step_of_runs ⟨hr, hc, ho, not_starved hpayload⟩).trans (runCommand_illegal hd s)

/-- Settles O10. -/
theorem statusOfEveryCommand : Obligations.StatusOfEveryCommand := by
  intro s t w hw h
  obtain ⟨st, hst, hends⟩ := runs_ends hw h
  exact hst ▸ hends.status

/-- Settles O18: an error takes the payload and writes no register, and only an `UPDATE` has a payload. -/
theorem errorsWriteNoRegister : Obligations.ErrorsWriteNoRegister := by
  intro s t w r hw h ho hr
  obtain ⟨st, -, hends⟩ := runs_ends hw h
  refine ⟨hends.eq_of_failed ho hr, fun hupdate => ?_, fun len => payloadLength_update⟩
  cases hd : decode w with
  | illegal why => exact payloadLength_illegal hd
  | legal i => exact payloadLength_of_not_update hd fun len hi => hupdate len (hi ▸ hd)

/-- Settles O19: with its bytes back, the state a failed command left differs from the one before it in the ports that
no command reads, so the repetition does what the command did. -/
theorem retryFailsIdentically : Obligations.RetryFailsIdentically := by
  intro s t i r h ho hs hr
  obtain ⟨rfl, -⟩ | ⟨hlen, hends⟩ := (exec_cases h).ends
  · exact absurd (hs.symm.trans ho) nofun
  · obtain rfl := hends.eq_of_failed ho hr
    exact ⟨_, (exec_of_ports i s none none fun len hi => by subst hi; exact hlen).trans h, rfl, by simp [SameContext]⟩

end Sys2Proof.Proofs

/-!
Proofs for the family of reset and hazards: which step is refused, and the idle core.
-/

namespace Sys2Proof.Machine

open Sys2Proof.Safety

section Overlap

variable {s : State}

theorem starved_iff {w : Word} : s.starved w = true ↔ s.din.length < payloadLength w := decide_eq_true_iff

/-- The host's move is refused exactly when it presents a command to a busy core (R190). -/
theorem hostMove_refused_iff {why : Refusal} :
    hostMove s = .refused why ↔
      why = .overlappingCommand ∧ s.busy = true ∧ ∃ w key tagIn rest, s.host = .present w key tagIn :: rest := by
  refine ⟨hostMove_refused, ?_⟩
  rintro ⟨rfl, hb, w, key, tagIn, rest, hh⟩
  simp only [hostMove, hh, if_pos hb]

theorem resetNext_of_present {w : Word} {key : KeyBus} {tagIn : U128} {rest : List HostAction}
    (h : s.host = .present w key tagIn :: rest) : s.resetNext = false := by
  simp only [State.resetNext, h]

/-- With one command at a time, a step is the host's or performs the command presented. -/
theorem hostTurn_or_runs (hport : s.cmd.isSome = true → s.out = none) : HostTurn s ∨ ∃ w, Runs s w := by
  cases hr : s.resetNext with
  | true => exact .inl (.inl hr)
  | false =>
    cases hc : s.cmd with
    | none => exact .inl (.inr (.inl hc))
    | some w =>
      have ho : s.out = none := hport (by simp [hc])
      cases hs : s.starved w with
      | true => exact .inl (.inr (.inr ⟨w, hc, ho, hs⟩))
      | false => exact .inr ⟨w, hr, hc, ho, hs⟩

/-- A command performed is never refused, so a refused step is a refused move of the host. -/
theorem step_refused_iff {why : Refusal} (hport : s.cmd.isSome = true → s.out = none) :
    step s = .refused why ↔ HostTurn s ∧ hostMove s = .refused why := by
  constructor
  · intro h
    obtain hturn | ⟨w, hw⟩ := hostTurn_or_runs hport
    · exact ⟨hturn, (step_of_hostTurn hturn).symm.trans h⟩
    · obtain ⟨t, ht⟩ := runCommand_next w s
      exact absurd ((step_of_runs hw).trans ht |>.symm.trans h) nofun
  · rintro ⟨hturn, h⟩
    exact (step_of_hostTurn hturn).trans h

/-- The host has its turn at a busy core while a response waits or an `UPDATE` waits for its payload (R190, R191). -/
theorem hostTurn_busy_iff (hport : s.cmd.isSome = true → s.out = none) (hr : s.resetNext = false) :
    HostTurn s ∧ s.busy = true ↔
      s.out.isSome = true ∨ ∃ w, s.cmd = some w ∧ s.din.length < payloadLength w := by
  constructor
  · rintro ⟨hr' | hc | ⟨w, hc, -, hs⟩, hb⟩
    · exact absurd (hr.symm.trans hr') nofun
    · exact .inl (by simpa [State.busy, hc] using hb)
    · exact .inr ⟨w, hc, starved_iff.mp hs⟩
  · rintro (ho | ⟨w, hc, hlen⟩)
    · have hc : s.cmd = none := by
        by_contra hc
        simp [hport (Option.isSome_iff_ne_none.mpr hc)] at ho
      exact ⟨.inr (.inl hc), by simp [State.busy, ho]⟩
    · have ho : s.out = none := hport (by simp [hc])
      exact ⟨.inr (.inr ⟨w, hc, ho, starved_iff.mpr hlen⟩), by simp [State.busy, hc]⟩

end Overlap

end Sys2Proof.Machine

namespace Sys2Proof.Proofs

open Sys2Proof.Machine Sys2Proof.Safety

/-- Settles O15: a refused step is the host's move at a busy core, and no reset stands next since a command does. -/
theorem onlyOverlapIsRefused : Obligations.OnlyOverlapIsRefused := by
  intro s why hs
  obtain ⟨-, -, hport⟩ := hs
  rw [step_refused_iff hport, hostMove_refused_iff]
  constructor
  · rintro ⟨hturn, hwhy, hb, hpresent⟩
    obtain ⟨w, key, tagIn, rest, hh⟩ := hpresent
    exact ⟨hwhy, ⟨w, key, tagIn, rest, hh⟩, (hostTurn_busy_iff hport (resetNext_of_present hh)).mp ⟨hturn, hb⟩⟩
  · rintro ⟨hwhy, ⟨w, key, tagIn, rest, hh⟩, hwait⟩
    obtain ⟨hturn, hb⟩ := (hostTurn_busy_iff hport (resetNext_of_present hh)).mpr hwait
    exact ⟨hturn, hwhy, hb, w, key, tagIn, rest, hh⟩

/-- Settles O11: with no command presented it is the host's turn, and it has nothing to do. -/
theorem idleCoreWaits : Obligations.IdleCoreWaits :=
  fun _ hc hh => (step_of_hostTurn (.inr (.inl hc))).trans (hostMove_done hh)

end Sys2Proof.Proofs
